-- ==== Sys2Proof/Word.lean ====
section
/-! DEFINITION. The widths of the block's values (spec/00_scope.md R8, R9): bytes, 16-bit values and
32-bit command words. Bit 0 is the least significant bit, and no value is signed. -/

namespace Sys2Proof

/-- `Byte`, an 8-bit unsigned value (R9). -/
abbrev Byte := BitVec 8

/-- `u16`, a 16-bit unsigned value: counters, channel values, the CRC, response values (R8, R9). -/
abbrev Half := BitVec 16

/-- `u32`, a 32-bit unsigned value: the command word (R8, R80) and the 32-bit telemetry fields (R75). -/
abbrev Word := BitVec 32

end Sys2Proof
end

