-- ==== Sys2Proof/Machine/Params.lean ====
section
/-! DEFINITION. The parameters the spec fixes (spec/00_scope.md R7). The literals are taken as the spec
states them; it calls them unaudited (R6, log entry 11). -/

namespace Sys2Proof.Machine

/-- `FRAME_LEN`, bytes of a frame (R7, R70). -/
def frameLen : Nat := 64

/-- `MAGIC` in wire order (R7, R52). -/
def magic : List Byte := [0xFE, 0xED, 0xBE, 0xEF]

/-- `PAYLOAD_LEN`: frame bytes 4..61 (R7, R12). -/
def payloadLen : Nat := 58

/-- `CRC_LEN`: frame bytes 62..63 (R7). -/
def crcLen : Nat := 2

/-- `DATA_LEN`: payload bytes 0..49 (R7, R12). -/
def dataLen : Nat := 50

/-- `PARITY_LEN`: payload bytes 50..57 (R7). -/
def parityLen : Nat := 8

/-- `N_CHANNELS` (R7). -/
def nChannels : Nat := 8

/-- `CMD_LEN`: payload bytes 0..15 of a command frame (R7, R76). -/
def cmdLen : Nat := 16

/-- `SENTINEL`: "no override for this channel" in a command frame (R7, R76). -/
def sentinel : Half := 0xFFFF

/-- `NO_OVERRIDE`: the value of RCCMD that means no active override (R7, R28). -/
def noOverride : Half := 0

/-- `CRC_INIT` (R7, R111). -/
def crcInit : Half := 0xFFFF

/-- `REF_CADENCE` in Hz: informative, no rule reads it (R7, R408). -/
def refCadenceHz : Nat := 100

end Sys2Proof.Machine
end

