-- ==== Sys2Proof/Machine/Operands.lean ====
section
/-! DEFINITION. Byte-sequence notation, spans and multi-byte fields (spec/00_scope.md R9, R12;
20_memory.md R53 to R55; 30_encoding.md R75, R76; 40_frame_codec.md R101). Frames, payloads and data spans
are lists of bytes in wire order (R52). A read outside a list gives 0: no step makes one, since every list
a step reads has the length its rule requires (log entry 9). -/

namespace Sys2Proof.Machine

/-- `f[i]` of R9. -/
def byteAt (f : List Byte) (i : Nat) : Byte := f.getD i 0

/-- `v[7:0]`. -/
def loByte (v : Half) : Byte := v.extractLsb' 0 8

/-- `v[15:8]`. -/
def hiByte (v : Half) : Byte := v.extractLsb' 8 8

/-- `zext16` (R9). -/
def zext16 (b : Byte) : Half := b.setWidth 16

/-- `le16(lo, hi)` (R9): the one way a 16-bit field is assembled from its bytes (R55). -/
def le16 (lo hi : Byte) : Half := zext16 lo ||| (zext16 hi <<< 8)

/-- The 32-bit little-endian composition of R75. -/
def le32 (b0 b1 b2 b3 : Byte) : Word :=
  b0.setWidth 32 ||| (b1.setWidth 32 <<< 8) ||| (b2.setWidth 32 <<< 16) ||| (b3.setWidth 32 <<< 24)

/-- The 16-bit field at byte offset `o` (R75). -/
def field16 (d : List Byte) (o : Nat) : Half := le16 (byteAt d o) (byteAt d (o + 1))

/-- The 32-bit field at byte offset `o` (R75). -/
def field32 (d : List Byte) (o : Nat) : Word :=
  le32 (byteAt d o) (byteAt d (o + 1)) (byteAt d (o + 2)) (byteAt d (o + 3))

/-- The bytes of a 16-bit field in wire order, the lowest first (R54). -/
def le16Bytes (v : Half) : List Byte := [loByte v, hiByte v]

/-- The bytes of a 32-bit field in wire order, the lowest first (R54). -/
def le32Bytes (v : Word) : List Byte :=
  [v.extractLsb' 0 8, v.extractLsb' 8 8, v.extractLsb' 16 8, v.extractLsb' 24 8]

/-- `P(f) = f[4..61]` (R12, R101). -/
def payloadSpan (f : List Byte) : List Byte := (f.drop 4).take payloadLen

/-- The data span of a payload, `P[0..49]` (R12). -/
def dataSpan (p : List Byte) : List Byte := p.take dataLen

/-- The transmitted checksum `T = le16(f[62], f[63])` (R53, R170). -/
def transmittedCrc (f : List Byte) : Half := field16 f 62

/-- `G(k) = { i | 0 <= i <= 49 and floor(i/8) = k }`, in ascending order (R12). -/
def group (k : Nat) : List Nat := (List.range dataLen).filter fun i => i / 8 == k

/-- `XOR_{i in S} a[i]` (R9); 0x00 over no index. -/
def xorOver (idx : List Nat) (a : List Byte) : Byte := idx.foldl (fun x i => x ^^^ byteAt a i) 0

/-- The value a command frame carries for channel `ch`: frame bytes 4+2ch and 5+2ch (R76, R190). -/
def commandValue (g : List Byte) (ch : Nat) : Half := field16 g (4 + 2 * ch)

end Sys2Proof.Machine
end

