-- ==== Sys2Proof/Config.lean ====
section
/-! DEFINITION. What the spec leaves open: the instance parameter TIMEOUT_THRESHOLD (spec/00_scope.md R8,
10_state.md R30) and the free bytes RXBUF holds after a reset input (10_state.md R35). Neither constant
that carries an open value has a body. -/

namespace Sys2Proof

/-- One less than the instance's TIMEOUT_THRESHOLD, so that every value of 1..65535 and no other is
possible (R30: "an integer in 1..65535"). OPEN in the spec (R8): no body. Log entry 1. -/
opaque Config.thresholdMinusOne : Fin 65535

/-- TIMEOUT_THRESHOLD of the instance that `State.reset` describes (R30). -/
def Config.timeoutThreshold : Half := BitVec.ofNat 16 (Config.thresholdMinusOne.val + 1)

/-- Free bytes: the byte number `n` that the spec calls "any value" (R35, R400 of RXBUF). Log entry 3. -/
opaque Config.freeByte : Nat → Byte

end Sys2Proof
end

