-- ==== Sys2Proof/Syntax.lean ====
section
/-! DEFINITION. The operations of ISL-CORE as syntax: one constructor per row of the opcode map
(spec/30_encoding.md R84), the opcodes and formats (R81, R84), the causes of IllegalCommand
(spec/60_exceptions.md R300) and what decoding answers (R85). -/

namespace Sys2Proof

/-- One operation with its operands, one constructor per row of R84. `VIN` operands are lists of bytes;
`Instr.wellFormed` says how long each must be (R82). -/
inductive Instr where
  /-- `NOP` (46_control.md R210). -/
  | nop
  /-- `CRC.INIT` (41_crc16.md R112). -/
  | crcInit
  /-- `CRC.BYTE b` (R113). -/
  | crcByte (b : Byte)
  /-- `CRC.READ` (R114). -/
  | crcRead
  /-- `FEC.ENCODE [d0 ... d49]` (42_fec.md R131). -/
  | fecEncode (d : List Byte)
  /-- `FEC.SYNDROME [P0 ... P57]` (R134). -/
  | fecSyndrome (p : List Byte)
  /-- `TX.ASSEMBLE [d0 ... d49]` (40_frame_codec.md R100). -/
  | txAssemble (d : List Byte)
  /-- `RX.PUSH b` (43_sync.md R154). -/
  | rxPush (b : Byte)
  /-- `RX.VALIDATE [f0 ... f63]` (44_validator.md R176). -/
  | rxValidate (f : List Byte)
  /-- `ARB.TICK` (45_arbiter.md R192). -/
  | arbTick
  /-- `CH.SAMPLE ch, raw` (R194, R195): every index 0..255 is legal in the word (R83). -/
  | chSample (ch : Byte) (raw : Half)
  /-- `REG.READ reg` (46_control.md R211): an unmapped number is rejected when it runs, not here (R85). -/
  | regRead (reg : Byte)
  deriving DecidableEq, Repr

/-- The twelve opcodes of R84, by name. -/
inductive Opcode where
  | nop | crcInit | crcByte | crcRead | fecEncode | fecSyndrome | txAssemble | rxPush | rxValidate
  | arbTick | chSample | regRead
  deriving DecidableEq, Repr

/-- The five command formats of R81. -/
inductive Format where
  /-- No operand. -/
  | n
  /-- A byte in IMM[7:0]. -/
  | b
  /-- A channel index in A and a raw sample in IMM. -/
  | c
  /-- A register number in A. -/
  | r
  /-- A byte vector. -/
  | v
  deriving DecidableEq, Repr

/-- The four causes of IllegalCommand (R300), in the order in which they are checked. -/
inductive IllegalCause where
  /-- Cause 1, ILL_OPCODE: OPC is not in the opcode map. -/
  | illOpcode
  /-- Cause 2, ILL_RESERVED: a reserved field of the format is not zero. -/
  | illReserved
  /-- Cause 3, ILL_VIN: the length of VIN differs from L(OPC). -/
  | illVin
  /-- Cause 4, ILL_REG: REG.READ names a register number outside the map. -/
  | illReg
  deriving DecidableEq, Repr

/-- What decoding a command answers (R85): an operation with its operands, or the cause of the
IllegalCommand it raises. -/
inductive Decoded where
  | instr (i : Instr)
  | illegal (cause : IllegalCause)
  deriving DecidableEq, Repr

end Sys2Proof
end

