-- ==== Sys2Proof/Machine/State.lean ====
section
/-! DEFINITION. The architectural state of one ISL-CORE instance (spec/10_state.md R22), the command
interface around it (spec/00_scope.md R3, R11; 70_reset_and_hazards.md R405), the reasons a step can stop,
and the state after reset (R35, R400). -/

namespace Sys2Proof.Machine

/-- The status of a response (R11). -/
inductive Status where
  | ok
  | illegal
  deriving DecidableEq, Repr

/-- `Resp` of R11: what one operation returns to the host. -/
structure Response where
  status : Status
  value : Half
  vout : List Byte
  deriving DecidableEq, Repr

/-- What the host may present to the block (R405): a command word with its VIN (R80), or the reset input
(R400). -/
inductive HostInput where
  | command (word : Word) (vin : List Byte)
  | reset
  deriving DecidableEq, Repr

/-- The block's registers (R22), its parameter, and the model's own fields for the command interface. -/
structure State where
  /-- `SYNC_CURSOR` (R23): 0..63, so that 64 is never held. -/
  syncCursor : Fin 64
  /-- `RXBUF[0..63]` (R24). -/
  rxbuf : Vector Byte 64
  /-- `CRC_ACC` (R25). -/
  crcAcc : Half
  /-- `TIMEOUT_CNT` (R26). -/
  timeoutCnt : Half
  /-- `TIMEOUT_THRESHOLD` (R30): the parameter of the instance, written by no step (log entry 1). -/
  timeoutThreshold : Half
  /-- `RCIN[0..7]` (R27). -/
  rcin : Vector Half 8
  /-- `RCCMD[0..7]` (R28). -/
  rccmd : Vector Half 8
  /-- `CNT_DISCARD` (R29). -/
  cntDiscard : Half
  /-- `CNT_VALID` (R29). -/
  cntValid : Half
  /-- `CNT_CORRECTED` (R29). -/
  cntCorrected : Half
  /-- `CNT_FAILED` (R29). -/
  cntFailed : Half
  /-- The model's own: what the host has presented and the block has not yet taken, oldest first
  (R60, R405, log entry 4). -/
  inputs : List HostInput
  /-- The model's own: the responses given so far, oldest first (R406, log entry 5). -/
  responses : List Response
  /-- The model's own: how many free bytes have been used (log entry 3). -/
  freeCount : Nat
  deriving DecidableEq, Repr

/-- Why a step stops. -/
inductive Fault where
  /-- Raised by `step` alone, when the host has presented nothing: "the block takes no step without an
  operation" (spec/93_implementation_defined.md I16, R406). Safe: the model stops where the block waits
  (log entry 6). -/
  | noOperation
  deriving DecidableEq, Repr

/-- Why a step is refused. -/
inductive Refusal where
  /-- An arm of `exec` without a meaning. No arm is left that raises it. Safe: no next state is claimed. -/
  | notModelled (mnemonic : String)
  deriving DecidableEq, Repr

/-- An instance right after reset, for a given TIMEOUT_THRESHOLD: R35, R400. RXBUF, which the spec leaves
at any value, is all zero here (DESIGN CHOICE, log entry 2). -/
def State.resetWith (threshold : Half) : State where
  syncCursor := 0
  rxbuf := Vector.replicate 64 0
  crcAcc := 0xFFFF
  timeoutCnt := 0
  timeoutThreshold := threshold
  rcin := Vector.replicate 8 0
  rccmd := Vector.replicate 8 0
  cntDiscard := 0
  cntValid := 0
  cntCorrected := 0
  cntFailed := 0
  inputs := []
  responses := []
  freeCount := 0

/-- The machine right after reset, its TIMEOUT_THRESHOLD the open parameter (R30). -/
def State.reset : State := State.resetWith Config.timeoutThreshold

/-- Building an instance: "An instance with TIMEOUT_THRESHOLD = 0 is not an ISL-CORE and a model refuses
to build it" (R30). Log entry 16. -/
def State.build (threshold : Half) : Option State :=
  if threshold = 0 then none else some (State.resetWith threshold)

end Sys2Proof.Machine
end

