-- ==== Sys2Proof/Machine/Flags.lean ====
section
/-! DEFINITION. The flag-like status of spec/10_state.md R31: the synchronizer state, the group flags of a
syndrome, and the event and verdict codes of a response. The block has no condition codes and stores none
of these. -/

namespace Sys2Proof.Machine

/-- The two synchronizer states (R150). -/
inductive SyncState where
  | seeking
  | accumulating
  deriving DecidableEq, Repr

/-- The synchronizer state is encoded in the cursor: Seeking in 0..3, Accumulating in 4..63 (R23). -/
def State.syncState (s : State) : SyncState := if s.syncCursor.val < 4 then .seeking else .accumulating

/-- The three verdicts of the validator (R171). -/
inductive Verdict where
  | valid
  | corrected
  | failed
  deriving DecidableEq, Repr

/-- The response codes of the verdicts (R171, R176). -/
def Verdict.code : Verdict → Half
  | .valid => 2
  | .corrected => 3
  | .failed => 4

/-- The five events of RX.PUSH (R154). -/
inductive RxEvent where
  | syncAccept
  | syncDiscard
  | frameValid
  | frameCorrected
  | frameFailed
  deriving DecidableEq, Repr

/-- The event codes of R154. -/
def RxEvent.code : RxEvent → Half
  | .syncAccept => 0
  | .syncDiscard => 1
  | .frameValid => 2
  | .frameCorrected => 3
  | .frameFailed => 4

/-- The mask `F` of R133: bit `k` is set when discrepancy `k` is not zero, that is, group `k` is flagged. -/
def flagMask (d : List Byte) : Byte :=
  (List.range parityLen).foldl (fun m k => m + (if byteAt d k ≠ 0 then 1#8 <<< k else 0)) 0

/-- The value ARB.TICK answers when it cleared the overrides, and when it did not (R192). -/
def tickValue (cleared : Bool) : Half := if cleared then 1 else 0

end Sys2Proof.Machine
end

