-- ==== Sys2Proof/WellFormed.lean ====
section
/-! DEFINITION. Which operations are well formed: a vector operation carries exactly `L(OPC)` bytes
(spec/30_encoding.md R82). The other operands are legal at every value their types admit (R83). -/

namespace Sys2Proof

/-- The VIN length check of R82, one check per vector operation. -/
def Instr.wellFormed : Instr → Bool
  | .nop => true
  | .crcInit => true
  | .crcByte _ => true
  | .crcRead => true
  | .fecEncode d => d.length == 50
  | .fecSyndrome p => p.length == 58
  | .txAssemble d => d.length == 50
  | .rxPush _ => true
  | .rxValidate f => f.length == 64
  | .arbTick => true
  | .chSample _ _ => true
  | .regRead _ => true

end Sys2Proof
end

