-- ==== Sys2Proof/Decode.lean ====
section
/-! DEFINITION. Decoding and encoding of commands (spec/30_encoding.md R80 to R87): the fields of the
command word, the opcode map, the decoder with its order of checks, the encoder written from the same
map, and the host's fixed reading of a table word. -/

namespace Sys2Proof

/-! ## The fields of the command word (R80) -/

/-- `OPC` = word[31:24]. -/
def opcField (w : Word) : Byte := w.extractLsb' 24 8

/-- `A` = word[23:16]. -/
def aField (w : Word) : Byte := w.extractLsb' 16 8

/-- `IMM` = word[15:0]. -/
def immField (w : Word) : Half := w.extractLsb' 0 16

/-- The byte operand `b` = IMM[7:0] (R83). -/
def byteField (w : Word) : Byte := w.extractLsb' 0 8

/-- A command word from its three fields (R80). -/
def packWord (opc a : Byte) (imm : Half) : Word :=
  (opc.setWidth 32 <<< 24) ||| (a.setWidth 32 <<< 16) ||| imm.setWidth 32

/-! ## The opcode map (R84) -/

/-- The OPC value of each operation (R84). -/
def Opcode.byte : Opcode → Byte
  | .nop => 0x00
  | .crcInit => 0x01
  | .crcByte => 0x02
  | .crcRead => 0x03
  | .fecEncode => 0x10
  | .fecSyndrome => 0x11
  | .txAssemble => 0x20
  | .rxPush => 0x30
  | .rxValidate => 0x31
  | .arbTick => 0x40
  | .chSample => 0x41
  | .regRead => 0x50

/-- The twelve rows of R84, in the table's order. -/
def Opcode.all : List Opcode :=
  [.nop, .crcInit, .crcByte, .crcRead, .fecEncode, .fecSyndrome, .txAssemble, .rxPush, .rxValidate,
   .arbTick, .chSample, .regRead]

/-- The operation an OPC value selects, if R84 lists it. Every other value is illegal (R86). -/
def Opcode.ofByte? (opc : Byte) : Option Opcode := Opcode.all.find? fun o => o.byte == opc

/-- The format of each operation (R84). -/
def Opcode.format : Opcode → Format
  | .nop | .crcInit | .crcRead | .arbTick => .n
  | .crcByte | .rxPush => .b
  | .fecEncode | .fecSyndrome | .txAssemble | .rxValidate => .v
  | .chSample => .c
  | .regRead => .r

/-- `L(OPC)` (R82, R84): 0 for every operation that takes no vector. -/
def Opcode.vinLen : Opcode → Nat
  | .fecEncode => 50
  | .fecSyndrome => 58
  | .txAssemble => 50
  | .rxValidate => 64
  | .nop | .crcInit | .crcByte | .crcRead | .rxPush | .arbTick | .chSample | .regRead => 0

/-- The bits of the word that a format reserves ("must be 0" in R81), kept in place. -/
def Format.reservedBits (f : Format) (w : Word) : Word :=
  match f with
  | .n => w &&& 0x00FFFFFF
  | .b => w &&& 0x00FFFF00
  | .c => 0
  | .r => w &&& 0x0000FFFF
  | .v => w &&& 0x00FFFFFF

/-- Operand assembly (R83): nothing is sign-extended and nothing is scaled. -/
def Opcode.operands (o : Opcode) (w : Word) (vin : List Byte) : Instr :=
  match o with
  | .nop => .nop
  | .crcInit => .crcInit
  | .crcByte => .crcByte (byteField w)
  | .crcRead => .crcRead
  | .fecEncode => .fecEncode vin
  | .fecSyndrome => .fecSyndrome vin
  | .txAssemble => .txAssemble vin
  | .rxPush => .rxPush (byteField w)
  | .rxValidate => .rxValidate vin
  | .arbTick => .arbTick
  | .chSample => .chSample (aField w) (immField w)
  | .regRead => .regRead (aField w)

/-- R85: total on every 32-bit word and every VIN, with the checks in the rule's order. The two length
tests of the rule are one, since `L(OPC)` is 0 for a format that takes no vector. -/
def decode (w : Word) (vin : List Byte) : Decoded :=
  match Opcode.ofByte? (opcField w) with
  | none => .illegal .illOpcode
  | some o =>
    if o.format.reservedBits w ≠ 0 then .illegal .illReserved
    else if vin.length ≠ o.vinLen then .illegal .illVin
    else .instr (o.operands w vin)

/-- The cause codes of R300. -/
def IllegalCause.code : IllegalCause → Half
  | .illOpcode => 1
  | .illReserved => 2
  | .illVin => 3
  | .illReg => 4

/-! ## The encoder -/

/-- The row of R84 an operation belongs to. -/
def Instr.opcode : Instr → Opcode
  | .nop => .nop
  | .crcInit => .crcInit
  | .crcByte _ => .crcByte
  | .crcRead => .crcRead
  | .fecEncode _ => .fecEncode
  | .fecSyndrome _ => .fecSyndrome
  | .txAssemble _ => .txAssemble
  | .rxPush _ => .rxPush
  | .rxValidate _ => .rxValidate
  | .arbTick => .arbTick
  | .chSample _ _ => .chSample
  | .regRead _ => .regRead

/-- The command word of an operation: its fields by format (R81), reserved fields 0. -/
def encodeWord (i : Instr) : Word :=
  match i with
  | .crcByte b => packWord i.opcode.byte 0 (b.setWidth 16)
  | .rxPush b => packWord i.opcode.byte 0 (b.setWidth 16)
  | .chSample ch raw => packWord i.opcode.byte ch raw
  | .regRead reg => packWord i.opcode.byte reg 0
  | .nop | .crcInit | .crcRead | .arbTick => packWord i.opcode.byte 0 0
  | .fecEncode _ | .fecSyndrome _ | .txAssemble _ | .rxValidate _ => packWord i.opcode.byte 0 0

/-- The VIN presented with the word (R82): empty but for a vector operation. -/
def encodeVin : Instr → List Byte
  | .fecEncode d => d
  | .fecSyndrome p => p
  | .txAssemble d => d
  | .rxValidate f => f
  | .nop | .crcInit | .crcByte _ | .crcRead | .rxPush _ | .arbTick | .chSample _ _ | .regRead _ => []

/-- The command of an operation: its word and its VIN (R80). -/
def encode (i : Instr) : Word × List Byte := (encodeWord i, encodeVin i)

/-! ## The table's masks, and the host's fixed reading of a table word -/

/-- `match` of R84. -/
def Opcode.matchBits (o : Opcode) : Word := packWord o.byte 0 0

/-- `mask` of R84, column by column as the table gives it. -/
def Opcode.maskBits : Opcode → Word
  | .nop => 0xFFFFFFFF
  | .crcInit => 0xFFFFFFFF
  | .crcByte => 0xFFFFFF00
  | .crcRead => 0xFFFFFFFF
  | .fecEncode => 0xFFFFFFFF
  | .fecSyndrome => 0xFFFFFFFF
  | .txAssemble => 0xFFFFFFFF
  | .rxPush => 0xFFFFFF00
  | .rxValidate => 0xFFFFFFFF
  | .arbTick => 0xFFFFFFFF
  | .chSample => 0xFF000000
  | .regRead => 0xFF00FFFF

/-- The word of a numbered command: its low 32 bits, the bits from `nbits` on being 0. Log entry 10. -/
def tableWord (nbits w : Nat) : Word := BitVec.ofNat 32 (w % 2 ^ nbits)

/-- The VIN of a numbered command: as many bytes as the word's OPC asks for (R87), byte `j` in bits
32+8j and up, the bits from `nbits` on being 0. Log entry 10. -/
def tableVin (nbits w : Nat) : List Byte :=
  match Opcode.ofByte? (opcField (tableWord nbits w)) with
  | none => []
  | some o => (List.range o.vinLen).map fun j => BitVec.ofNat 8 ((w % 2 ^ nbits) >>> (32 + 8 * j))

/-- The instruction the decoder reads from a command whose bits are `w`, numbered as
spec/opcode_table.json numbers them. -/
def decodeTableWord (nbits w : Nat) : Option Instr :=
  match decode (tableWord nbits w) (tableVin nbits w) with
  | .instr i => some i
  | .illegal _ => none

end Sys2Proof
end

