-- ==== Sys2Proof/Machine/Ops.lean ====
section
/-! DEFINITION. The named operations over the state: one write per register, responding, raising
IllegalCommand (the block's one exception, spec/60_exceptions.md R300), the reset input
(spec/70_reset_and_hazards.md R400), and taking and presenting host inputs (R60, R405). The block has no
addressed memory (spec/20_memory.md R50), no trap entry and no trap return (R304, R305). -/

namespace Sys2Proof.Machine

/-! ## Register writes -/

/-- `CRC_ACC <- v`. -/
def State.setCrcAcc (v : Half) (s : State) : State := { s with crcAcc := v }

/-- `SYNC_CURSOR <- n`, for `n` in 0..63 (R23). -/
def State.setCursor (n : Nat) (s : State) : State := { s with syncCursor := Fin.ofNat 64 n }

/-- `RXBUF[SYNC_CURSOR] <- b` (R151, R152). -/
def State.storeRx (b : Byte) (s : State) : State :=
  { s with rxbuf := s.rxbuf.set s.syncCursor.val b s.syncCursor.isLt }

/-- `TIMEOUT_CNT <- v`. -/
def State.setTimeoutCnt (v : Half) (s : State) : State := { s with timeoutCnt := v }

/-- `RCIN[ch] <- raw`. -/
def State.setRcin (ch : Fin 8) (raw : Half) (s : State) : State :=
  { s with rcin := s.rcin.set ch.val raw ch.isLt }

/-- All eight RCCMD slots at once: slot `ch` takes `v ch`. -/
def State.setRccmd (v : Vector Half 8) (s : State) : State := { s with rccmd := v }

/-- `CNT_DISCARD + 1` modulo 2^16 (R29). -/
def State.countDiscard (s : State) : State := { s with cntDiscard := s.cntDiscard + 1 }

/-- `CNT_VALID + 1` modulo 2^16 (R29). -/
def State.countValid (s : State) : State := { s with cntValid := s.cntValid + 1 }

/-- `CNT_CORRECTED + 1` modulo 2^16 (R29). -/
def State.countCorrected (s : State) : State := { s with cntCorrected := s.cntCorrected + 1 }

/-- `CNT_FAILED + 1` modulo 2^16 (R29). -/
def State.countFailed (s : State) : State := { s with cntFailed := s.cntFailed + 1 }

/-! ## Responses and the exception -/

/-- `respond(status, value, vout)` (R10): appends the response to the run's observation (R406). -/
def State.respond (r : Response) (s : State) : State := { s with responses := s.responses ++ [r] }

/-- `respond(OK, value, vout)`; a field a rule does not name is 0 or empty (R11). -/
def respondOk (value : Half) (vout : List Byte) (s : State) : State := s.respond ⟨.ok, value, vout⟩

/-- Raising IllegalCommand (R300): the response carries the cause, `vout` is empty and no state element
is written. Shared by the decoder's rejections, the VIN length check and REG.READ. -/
def raiseIllegal (cause : IllegalCause) (s : State) : State := s.respond ⟨.illegal, cause.code, []⟩

/-- The VIN length check of R82 in front of a vector operation's effect. A decoded operation always passes
it; a term that no command decodes to raises the exception R82 names (log entry 8). -/
def withVin (len : Nat) (vin : List Byte) (effect : State → State) (s : State) : State :=
  if vin.length = len then effect s else raiseIllegal .illVin s

/-! ## Host inputs -/

/-- The contents of RXBUF after a reset input: 64 free bytes (R400 "RXBUF is any value"), numbered from
`n`. Log entry 3. -/
def freeRxbuf (n : Nat) : Vector Byte 64 := Vector.ofFn fun i => Config.freeByte (n + i.val)

/-- The reset input (R400): every state element takes its value of R35, the parameter stays, a partial
frame is lost without being counted, and there is no response. What the host has presented and what it has
been answered are outside the block and stay. -/
def applyReset (s : State) : State :=
  { State.resetWith s.timeoutThreshold with
    rxbuf := freeRxbuf s.freeCount
    inputs := s.inputs
    responses := s.responses
    freeCount := s.freeCount + 64 }

/-- Taking the next input the host presented, in its order (R60). -/
def fetch (s : State) : Option (HostInput × State) :=
  match s.inputs with
  | [] => none
  | x :: rest => some (x, { s with inputs := rest })

/-- The host presents an input as the very next one. -/
def State.presentNext (x : HostInput) (s : State) : State := { s with inputs := x :: s.inputs }

/-- The host presents inputs after those already presented. -/
def State.present (xs : List HostInput) (s : State) : State := { s with inputs := s.inputs ++ xs }

/-- An operation as the command the host presents (R80). -/
def commandOf (i : Instr) : HostInput := .command (encodeWord i) (encodeVin i)

end Sys2Proof.Machine
end

