-- ==== Sys2Proof/Machine/Arbiter.lean ====
section
/-! DEFINITION. The command arbiter and the failsafe timer (spec/45_arbiter.md): the internal action
ARB.APPLY of R190, ARB.TICK and CH.SAMPLE. -/

namespace Sys2Proof.Machine

/-- What a transmitted value does to an override slot (R190, R191): the sentinel leaves it, every other
value, 0 among them, replaces it. -/
def overrideOf (old v : Half) : Half := if v = sentinel then old else v

/-- `ARB.APPLY(g)` (R190): no opcode, run from RX.PUSH alone. -/
def arbApply (g : List Byte) (s : State) : State :=
  (s.setTimeoutCnt 0).setRccmd (Vector.ofFn fun ch => overrideOf s.rccmd[ch] (commandValue g ch.val))

/-- Every override slot cleared (R192). -/
def noOverrides : Vector Half 8 := Vector.replicate 8 noOverride

/-- `ARB.TICK` (R192): increment, compare with `>=`, and clear at the threshold. -/
def execArbTick (s : State) : Host.Outcome State Fault Refusal :=
  .next (if s.timeoutThreshold ≤ s.timeoutCnt + 1 then
    respondOk (tickValue true) [] ((s.setTimeoutCnt 0).setRccmd noOverrides)
  else respondOk (tickValue false) [] (s.setTimeoutCnt (s.timeoutCnt + 1)))

/-- The effective channel value (R194): an active override hides the raw sample. -/
def effectiveValue (override raw : Half) : Half := if override ≠ noOverride then override else raw

/-- `CH.SAMPLE ch, raw` (R194); an index of 8 or more writes nothing and answers `raw` (R195). -/
def execChSample (ch : Byte) (raw : Half) (s : State) : Host.Outcome State Fault Refusal :=
  .next (if h : ch.toNat < 8 then
    respondOk (effectiveValue s.rccmd[ch.toNat] raw) [] (s.setRcin ⟨ch.toNat, h⟩ raw)
  else respondOk raw [] s)

end Sys2Proof.Machine
end

