-- ==== Sys2Proof/Machine/Control.lean ====
section
/-! DEFINITION. Control and status (spec/46_control.md): NOP, and REG.READ over the register map of
spec/10_state.md R32. -/

namespace Sys2Proof.Machine

/-- The registers of the map R32, by name. -/
inductive RegName where
  | syncCursor | crcAcc | timeoutCnt | timeoutThreshold
  | cntDiscard | cntValid | cntCorrected | cntFailed
  | rcin (ch : Fin 8)
  | rccmd (ch : Fin 8)
  deriving DecidableEq, Repr

/-- The register a number selects, if R32 maps it: 0x08..0x0F and 0x20..0xFF are reserved. -/
def regOfNumber (reg : Byte) : Option RegName :=
  match reg.toNat with
  | 0x00 => some .syncCursor
  | 0x01 => some .crcAcc
  | 0x02 => some .timeoutCnt
  | 0x03 => some .timeoutThreshold
  | 0x04 => some .cntDiscard
  | 0x05 => some .cntValid
  | 0x06 => some .cntCorrected
  | 0x07 => some .cntFailed
  | n =>
    if 0x10 ≤ n ∧ n ≤ 0x17 then some (.rcin (Fin.ofNat 8 (n - 0x10)))
    else if 0x18 ≤ n ∧ n ≤ 0x1F then some (.rccmd (Fin.ofNat 8 (n - 0x18)))
    else none

/-- The content of a register (R32, R211): 16 bits, unlisted bits 0. -/
def readReg (r : RegName) (s : State) : Half :=
  match r with
  | .syncCursor => BitVec.ofNat 16 s.syncCursor.val
  | .crcAcc => s.crcAcc
  | .timeoutCnt => s.timeoutCnt
  | .timeoutThreshold => s.timeoutThreshold
  | .cntDiscard => s.cntDiscard
  | .cntValid => s.cntValid
  | .cntCorrected => s.cntCorrected
  | .cntFailed => s.cntFailed
  | .rcin ch => s.rcin[ch]
  | .rccmd ch => s.rccmd[ch]

/-- `NOP` (R210). -/
def execNop (s : State) : Host.Outcome State Fault Refusal := .next (respondOk 0 [] s)

/-- `REG.READ reg` (R211): an unmapped number raises IllegalCommand with cause 4. -/
def execRegRead (reg : Byte) (s : State) : Host.Outcome State Fault Refusal :=
  .next (match regOfNumber reg with
  | some r => respondOk (readReg r s) [] s
  | none => raiseIllegal .illReg s)

end Sys2Proof.Machine
end

