-- ==== Sys2Proof/Machine/Crc.lean ====
section
/-! DEFINITION. The CRC-16 engine (spec/41_crc16.md): the step and the function of R110 and R111, the
reference shift register of R115, and CRC.INIT, CRC.BYTE, CRC.READ. -/

namespace Sys2Proof.Machine

/-- The 8-bit intermediate of R110: `acc[15:8] ^ b`, folded with itself shifted right by 4. -/
def crcFold (acc : Half) (b : Byte) : Byte :=
  let x := hiByte acc ^^^ b
  x ^^^ (x >>> 4)

/-- `crcStep(acc, b)` (R110). -/
def crcStep (acc : Half) (b : Byte) : Half :=
  let x := zext16 (crcFold acc b)
  (acc <<< 8) ^^^ (x <<< 12) ^^^ (x <<< 5) ^^^ x

/-- `crc16(bytes)` (R111): no final XOR and no reflection. -/
def crc16 (bytes : List Byte) : Half := bytes.foldl crcStep crcInit

/-- One shift of the MSB-first register with polynomial 0x1021 (R115). -/
def shiftStep (acc : Half) : Half := if acc.msb then (acc <<< 1) ^^^ 0x1021 else acc <<< 1

/-- One byte through the bitwise register of R115. A reference: no operation uses it. -/
def bitwiseCrcStep (acc : Half) (b : Byte) : Half :=
  (List.range 8).foldl (fun a _ => shiftStep a) (acc ^^^ (zext16 b <<< 8))

/-- `CRC.INIT` (R112). The response value is the rule's 0xFFFF (log entry 7). -/
def execCrcInit (s : State) : Host.Outcome State Fault Refusal :=
  .next (respondOk crcInit [] (s.setCrcAcc crcInit))

/-- `CRC.BYTE b` (R113): the response value is the accumulator after the update. -/
def execCrcByte (b : Byte) (s : State) : Host.Outcome State Fault Refusal :=
  .next (respondOk (crcStep s.crcAcc b) [] (s.setCrcAcc (crcStep s.crcAcc b)))

/-- `CRC.READ` (R114). -/
def execCrcRead (s : State) : Host.Outcome State Fault Refusal :=
  .next (respondOk s.crcAcc [] s)

end Sys2Proof.Machine
end

