-- ==== Sys2Proof/Machine/Fec.lean ====
section
/-! DEFINITION. The XOR-parity encoder and decoder (spec/42_fec.md): parity R130, syndrome R133, and
FEC.ENCODE, FEC.SYNDROME. -/

namespace Sys2Proof.Machine

/-- `parity(d)` (R130): `p[k] = XOR_{i in G(k)} d[i]` for `k` in 0..7. -/
def parity (d : List Byte) : List Byte := (List.range parityLen).map fun k => xorOver (group k) d

/-- The discrepancy `d[k]` of R133: the recomputed parity of group `k` against the received parity byte. -/
def discrepancy (p : List Byte) (k : Nat) : Byte := xorOver (group k) p ^^^ byteAt p (dataLen + k)

/-- The discrepancies `d[0..7]` of `syndrome(P)` (R133); `flagMask` of them is its `F`. -/
def syndrome (p : List Byte) : List Byte := (List.range parityLen).map (discrepancy p)

/-- A payload is consistent when its parity bytes are those of its data span (R134, R135). -/
def parityConsistent (p : List Byte) : Bool := (List.range parityLen).all fun k => discrepancy p k == 0

/-- `FEC.ENCODE [d0 ... d49]` (R131). -/
def execFecEncode (d : List Byte) (s : State) : Host.Outcome State Fault Refusal :=
  .next (withVin 50 d (respondOk 0 (parity d)) s)

/-- `FEC.SYNDROME [P0 ... P57]` (R134): the value is the zero-extended flag mask. -/
def execFecSyndrome (p : List Byte) (s : State) : Host.Outcome State Fault Refusal :=
  .next (withVin 58 p (respondOk (zext16 (flagMask (syndrome p))) (syndrome p)) s)

end Sys2Proof.Machine
end

