-- ==== Sys2Proof/Machine/FrameCodec.lean ====
section
/-! DEFINITION. The frame codec (spec/40_frame_codec.md): the structural functions of R101, the frame of
R100, and TX.ASSEMBLE. -/

namespace Sys2Proof.Machine

/-- `assemble(payload58)` (R101): the magic, the payload and two placeholder bytes. -/
def assemble (payload : List Byte) (placeholder : Byte) : List Byte :=
  magic ++ payload ++ [placeholder, placeholder]

/-- The checksum bytes of a frame overwritten by `c`, low byte first (R100, R53). -/
def setChecksum (f : List Byte) (c : Half) : List Byte := (f.set 62 (loByte c)).set 63 (hiByte c)

/-- The payload `TX.ASSEMBLE` sends: the data span, then its parity (R73, R100). -/
def txPayload (d : List Byte) : List Byte := d ++ parity d

/-- The frame `TX.ASSEMBLE` builds (R100): parity before the checksum, the checksum over all 58 payload
bytes. The placeholder of R101 is overwritten. -/
def txFrame (d : List Byte) : List Byte := setChecksum (assemble (txPayload d) 0) (crc16 (txPayload d))

/-- `TX.ASSEMBLE [d0 ... d49]` (R100). -/
def execTxAssemble (d : List Byte) (s : State) : Host.Outcome State Fault Refusal :=
  .next (withVin 50 d (respondOk (crc16 (txPayload d)) (txFrame d)) s)

/-- The frame invariant of R71 with the layout of R70: 64 bytes, the magic in front, and the checksum of
the payload in bytes 62 and 63. What R156 calls a well-formed frame. -/
def wellFormedFrame (f : List Byte) : Bool :=
  f.length == frameLen && f.take 4 == magic && crc16 (payloadSpan f) == transmittedCrc f

end Sys2Proof.Machine
end

