-- ==== Sys2Proof/Machine/Validator.lean ====
section
/-! DEFINITION. The single-byte error locator and corrector (spec/44_validator.md): the trials of R173,
`validate` of R175, and RX.VALIDATE. -/

namespace Sys2Proof.Machine

/-- One trial of R173: a fresh copy of the payload with byte `i` XORed by the discrepancy `e`. -/
def trialAt (p : List Byte) (e : Byte) (i : Nat) : List Byte := p.set i (byteAt p i ^^^ e)

/-- The trials of group `k` in ascending position, none when the group is not flagged (R173). -/
def groupTrials (p : List Byte) (k : Nat) : List (List Byte) :=
  if discrepancy p k = 0 then [] else (group k).map (trialAt p (discrepancy p k))

/-- All trials, flagged groups in ascending order (R173). The discrepancies are those of the received
payload (R172). -/
def trials (p : List Byte) : List (List Byte) := (List.range parityLen).flatMap (groupTrials p)

/-- `f[0..3] ++ Q ++ f[62..63]` (R173). -/
def withPayload (f q : List Byte) : List Byte := f.take 4 ++ q ++ f.drop 62

/-- `validate(f)` (R175): the integrity check, then the first trial whose checksum is the transmitted one,
else failure. -/
def validate (f : List Byte) : Verdict × List Byte :=
  if crc16 (payloadSpan f) = transmittedCrc f then (.valid, f)
  else
    match (trials (payloadSpan f)).find? fun q => crc16 q == transmittedCrc f with
    | some q => (.corrected, withPayload f q)
    | none => (.failed, f)

/-- `RX.VALIDATE [f0 ... f63]` (R176): no counter moves and no command is applied. -/
def execRxValidate (f : List Byte) (s : State) : Host.Outcome State Fault Refusal :=
  .next (withVin 64 f (respondOk (validate f).1.code (validate f).2) s)

end Sys2Proof.Machine
end

