-- ==== Sys2Proof/Machine/Sync.lean ====
section
/-! DEFINITION. The frame synchronizer (spec/43_sync.md): the Seeking and Accumulating transitions of
R151 and R152, frame completion, and RX.PUSH. -/

namespace Sys2Proof.Machine

/-- A byte accepted at the cursor: stored there, the cursor one further (R151, R152). -/
def acceptByte (b : Byte) (s : State) : State :=
  respondOk RxEvent.syncAccept.code [] ((s.storeRx b).setCursor (s.syncCursor.val + 1))

/-- A byte that breaks the magic match: discarded and counted, the cursor back at 0, and not tested again
against the first magic byte (R151, R155). -/
def discardByte (s : State) : State :=
  respondOk RxEvent.syncDiscard.code [] ((s.setCursor 0).countDiscard)

/-- What follows the verdict on a completed frame (R152, R153): one counter, and for a Valid or Corrected
frame the command of the validator's output frame. -/
def settleFrame (v : Verdict × List Byte) (s : State) : State :=
  match v with
  | (.valid, g) => respondOk RxEvent.frameValid.code g (arbApply g s.countValid)
  | (.corrected, g) => respondOk RxEvent.frameCorrected.code g (arbApply g s.countCorrected)
  | (.failed, _) => respondOk RxEvent.frameFailed.code [] s.countFailed

/-- The 64th byte: stored, the cursor back at 0, and the frame validated in the same operation (R152). -/
def completeFrame (b : Byte) (s : State) : State :=
  settleFrame (validate (s.storeRx b).rxbuf.toList) ((s.storeRx b).setCursor 0)

/-- One step of the synchronizer (R150 to R154). -/
def rxPush (b : Byte) (s : State) : State :=
  if s.syncCursor.val < 4 then
    if b = byteAt magic s.syncCursor.val then acceptByte b s else discardByte s
  else if s.syncCursor.val + 1 < 64 then acceptByte b s
  else completeFrame b s

/-- `RX.PUSH b` (R154). -/
def execRxPush (b : Byte) (s : State) : Host.Outcome State Fault Refusal := .next (rxPush b s)

end Sys2Proof.Machine
end

