-- ==== Sys2Proof/Machine/Dispatch.lean ====
section
/-! DEFINITION. The dispatch of operations to their meanings: one arm per row of spec/30_encoding.md R84. -/

namespace Sys2Proof.Machine

-- What an operation does to the state (R84 names each rule).
def exec (i : Instr) (s : State) : Host.Outcome State Fault Refusal :=
  match i with
  | .nop => Sys2Proof.Machine.execNop s
  | .crcInit => Sys2Proof.Machine.execCrcInit s
  | .crcByte b => Sys2Proof.Machine.execCrcByte b s
  | .crcRead => Sys2Proof.Machine.execCrcRead s
  | .fecEncode d => Sys2Proof.Machine.execFecEncode d s
  | .fecSyndrome p => Sys2Proof.Machine.execFecSyndrome p s
  | .txAssemble d => Sys2Proof.Machine.execTxAssemble d s
  | .rxPush b => Sys2Proof.Machine.execRxPush b s
  | .rxValidate f => Sys2Proof.Machine.execRxValidate f s
  | .arbTick => Sys2Proof.Machine.execArbTick s
  | .chSample ch raw => Sys2Proof.Machine.execChSample ch raw s
  | .regRead reg => Sys2Proof.Machine.execRegRead reg s

end Sys2Proof.Machine
end

