-- ==== Sys2Proof/Machine/Step.lean ====
section
/-! DEFINITION. One step of the block: it takes the next input the host presented (spec/20_memory.md R60),
decodes a command (spec/30_encoding.md R85) and runs it, or applies the reset input
(spec/70_reset_and_hazards.md R400). -/

namespace Sys2Proof.Machine

/-- One operation of the block (R3). With no input presented the block takes no step (I16, log entry 6);
a command that does not decode raises IllegalCommand and the block goes on (R300, R304). -/
def step (s : State) : Host.Outcome State Fault Refusal :=
  match fetch s with
  | none => .fault .noOperation
  | some (.reset, s') => .next (applyReset s')
  | some (.command w vin, s') =>
    match decode w vin with
    | .instr i => exec i s'
    | .illegal cause => .next (raiseIllegal cause s')

/-- The state with the command numbered `w` presented as the very next input. Log entries 4 and 10. -/
def State.withFetchWord (s : State) (nbits w : Nat) : State :=
  s.presentNext (.command (tableWord nbits w) (tableVin nbits w))

end Sys2Proof.Machine
end

