-- ==== Sys2Proof/Machine/Payload.lean ====
section
/-! DEFINITION. The payload layouts (spec/30_encoding.md R73 to R76): the telemetry fields the host packs
into the data span of TX.ASSEMBLE, and the command payload. The block itself copies the data span and
interprets nothing in it (R15, R74): these are the host's side (log entry 19). -/

namespace Sys2Proof.Machine

/-- The fields of the telemetry data span in wire order (R74). The gyro fields are opaque 32-bit patterns
(R15) and the altitude is the host's placeholder. -/
structure Telemetry where
  acc : Vector Word 3
  gyro : Vector Word 3
  att : Vector Half 3
  rc : Vector Half 8
  rssi : Half
  alt : Half
  deriving DecidableEq, Repr

/-- The host packs the fields in order, with no padding, each little-endian (R74, R75). -/
def Telemetry.pack (t : Telemetry) : List Byte :=
  (t.acc.toList ++ t.gyro.toList).flatMap le32Bytes ++
    (t.att.toList ++ t.rc.toList ++ [t.rssi, t.alt]).flatMap le16Bytes

/-- The fields read back at the byte offsets of the table of R74. -/
def Telemetry.unpack (d : List Byte) : Telemetry where
  acc := Vector.ofFn fun j => field32 d (4 * j.val)
  gyro := Vector.ofFn fun j => field32 d (12 + 4 * j.val)
  att := Vector.ofFn fun j => field16 d (24 + 2 * j.val)
  rc := Vector.ofFn fun j => field16 d (30 + 2 * j.val)
  rssi := field16 d 46
  alt := field16 d 48

/-- A command payload (R76): eight values in payload bytes 0..15, then 42 bytes of filler. -/
def commandPayload (v : Vector Half 8) (filler : List Byte) : List Byte :=
  v.toList.flatMap le16Bytes ++ filler

/-- A command frame as its sender builds it: the frame of R70 around a command payload. -/
def commandFrame (v : Vector Half 8) (filler : List Byte) : List Byte :=
  setChecksum (assemble (commandPayload v filler) 0) (crc16 (commandPayload v filler))

end Sys2Proof.Machine
end

