-- ==== Sys2Proof/Machine/Pseudo.lean ====
section
/-! DEFINITION. The three pseudo-instructions (spec/30_encoding.md R89) and their expansions. -/

namespace Sys2Proof.Machine

/-- The pseudo-instructions of R89. -/
inductive Pseudo where
  /-- `CRC.BLOCK [b0 ... bn-1]`. -/
  | crcBlock (bytes : List Byte)
  /-- `RX.DRAIN [b0 ... bn-1]`. -/
  | rxDrain (bytes : List Byte)
  /-- `CYCLE [rx bytes], [d0 ... d49]`: one periodic cycle (spec/70_reset_and_hazards.md R404). -/
  | cycle (rx d : List Byte)
  deriving DecidableEq, Repr

/-- The operations a pseudo-instruction expands to, in this exact order (R89, R404). -/
def Pseudo.expand : Pseudo → List Instr
  | .crcBlock bytes => .crcInit :: bytes.map .crcByte ++ [.crcRead]
  | .rxDrain bytes => bytes.map .rxPush
  | .cycle rx d => .arbTick :: rx.map .rxPush ++ [.txAssemble d]

end Sys2Proof.Machine
end

