-- ==== Sys2Proof/Safety.lean ====
section
/-! DEFINITION. The terms in which claims are made: running a list of operations, the invariants of a safe
run, which registers two states share, and what the host cannot observe. -/

namespace Sys2Proof.Machine

/-- Running operations one after another (spec/20_memory.md R60), stopping at the first stop. -/
def execAll : List Instr → State → Host.Outcome State Fault Refusal
  | [], s => .next s
  | i :: is, s =>
    match exec i s with
    | .next s' => execAll is s'
    | .fault r => .fault r
    | .refused r => .refused r

/-- What the spec promises of every state between operations. -/
structure State.Inv (s : State) : Prop where
  /-- `0 <= TIMEOUT_CNT <= TIMEOUT_THRESHOLD - 1` (spec/10_state.md R26). -/
  timeout : s.timeoutCnt < s.timeoutThreshold
  /-- "The value 0xFFFF can never be stored" in an override slot (R28). -/
  overrides : ∀ ch : Fin 8, s.rccmd[ch] ≠ sentinel
  /-- The accepted bytes begin with the magic (R24). -/
  magicPrefix : ∀ i : Fin 64, i < s.syncCursor → i.val < 4 → s.rxbuf[i] = byteAt magic i.val

/-- What the spec promises of one response: 0, 8 or 64 bytes (spec/20_memory.md R57), and of an ILLEGAL one
a cause 1..4 and no bytes (spec/60_exceptions.md R300). -/
structure Response.Shaped (r : Response) : Prop where
  length : r.vout.length = 0 ∨ r.vout.length = 8 ∨ r.vout.length = 64
  illegal : r.status = .illegal → r.vout = [] ∧ 1 ≤ r.value ∧ r.value ≤ 4

/-- Every state element of spec/10_state.md R22, and the parameter, is the same in both states. -/
structure SameRegisters (s t : State) : Prop where
  syncCursor : t.syncCursor = s.syncCursor
  rxbuf : t.rxbuf = s.rxbuf
  crcAcc : t.crcAcc = s.crcAcc
  timeoutCnt : t.timeoutCnt = s.timeoutCnt
  timeoutThreshold : t.timeoutThreshold = s.timeoutThreshold
  rcin : t.rcin = s.rcin
  rccmd : t.rccmd = s.rccmd
  cntDiscard : t.cntDiscard = s.cntDiscard
  cntValid : t.cntValid = s.cntValid
  cntCorrected : t.cntCorrected = s.cntCorrected
  cntFailed : t.cntFailed = s.cntFailed

/-- Two states that differ at most in stale bytes of RXBUF, those at the cursor and above (R24, R33). -/
structure AgreeButStale (s t : State) : Prop where
  syncCursor : s.syncCursor = t.syncCursor
  accepted : ∀ i : Fin 64, i < s.syncCursor → s.rxbuf[i] = t.rxbuf[i]
  crcAcc : s.crcAcc = t.crcAcc
  timeoutCnt : s.timeoutCnt = t.timeoutCnt
  timeoutThreshold : s.timeoutThreshold = t.timeoutThreshold
  rcin : s.rcin = t.rcin
  rccmd : s.rccmd = t.rccmd
  cntDiscard : s.cntDiscard = t.cntDiscard
  cntValid : s.cntValid = t.cntValid
  cntCorrected : s.cntCorrected = t.cntCorrected
  cntFailed : s.cntFailed = t.cntFailed
  inputs : s.inputs = t.inputs
  responses : s.responses = t.responses
  freeCount : s.freeCount = t.freeCount

/-- The next input is a command that decodes to operation `i`. -/
def State.NextRuns (s : State) (i : Instr) : Prop :=
  ∃ w vin rest, s.inputs = .command w vin :: rest ∧ decode w vin = .instr i

/-- The next input is the reset input. -/
def State.NextResets (s : State) : Prop := ∃ rest, s.inputs = .reset :: rest

/-- One byte of a sequence XORed with `e`: the error pattern of R177. -/
def flipByte (f : List Byte) (j : Nat) (e : Byte) : List Byte := f.set j (byteAt f j ^^^ e)

/-- Two byte sequences XORed byte by byte (R135). -/
def xorBytes (p e : List Byte) : List Byte := List.zipWith (fun x y => x ^^^ y) p e

/-! ## The rules' own loops -/

/-- `parity(d)` as R130 writes it: eight slots, each data byte XORed into slot `i / 8`. -/
def parityLoop (d : List Byte) : List Byte :=
  (List.range 50).foldl (fun p i => p.set (i / 8) (byteAt p (i / 8) ^^^ byteAt d i)) (List.replicate 8 0)

/-- The inner loop of R175: positions in turn, each on a fresh copy of `p`. -/
def tryPositions (p : List Byte) (want : Half) (e : Byte) : List Nat → Option (List Byte)
  | [] => none
  | i :: is =>
    if crc16 (p.set i (byteAt p i ^^^ e)) = want then some (p.set i (byteAt p i ^^^ e))
    else tryPositions p want e is

/-- The outer loop of R175: groups in turn, those without a discrepancy skipped. -/
def tryGroups (p : List Byte) (want : Half) (d : List Byte) : List Nat → Option (List Byte)
  | [] => none
  | k :: ks =>
    if byteAt d k = 0 then tryGroups p want d ks
    else
      match tryPositions p want (byteAt d k) ((List.range 50).filter fun i => i / 8 == k) with
      | some q => some q
      | none => tryGroups p want d ks

/-- `validate(f)` as R175 writes it, the syndrome computed once. -/
def validateLoop (f : List Byte) : Verdict × List Byte :=
  let p := (f.drop 4).take 58
  let want := le16 (byteAt f 62) (byteAt f 63)
  if crc16 p = want then (.valid, f)
  else
    match tryGroups p want (syndrome p) [0, 1, 2, 3, 4, 5, 6, 7] with
    | some q => (.corrected, f.take 4 ++ q ++ f.drop 62)
    | none => (.failed, f)

/-! ## Accepted frames -/

/-- The verdict the synchronizer reaches when byte `b` completes a frame in `s`; none when it does not
complete one (spec/43_sync.md R152). -/
def completionVerdict (b : Byte) (s : State) : Option Verdict :=
  if s.syncCursor.val = 63 then some (validate (s.storeRx b).rxbuf.toList).1 else none

/-- Whether an operation makes the block accept a command frame: an RX.PUSH that completes a frame found
Valid or Corrected (R152, spec/45_arbiter.md R190). -/
def acceptsFrame (i : Instr) (s : State) : Bool :=
  match i with
  | .rxPush b => completionVerdict b s == some .valid || completionVerdict b s == some .corrected
  | .nop | .crcInit | .crcByte _ | .crcRead | .fecEncode _ | .fecSyndrome _ | .txAssemble _
  | .rxValidate _ | .arbTick | .chSample _ _ | .regRead _ => false

/-- No operation of a run accepts a command frame. -/
def Quiet : List Instr → State → Prop
  | [], _ => True
  | i :: is, s => acceptsFrame i s = false ∧ ∀ t, exec i s = .next t → Quiet is t

end Sys2Proof.Machine
end

