-- ==== Sys2Proof/Certificates/Slice0/Obligations.lean ====
section
/-! DEFINITION. The statements for the provers. Each docstring names the rule of spec/ it formalises, or
says that it is derived. Every statement about a next state is an equation with `exec`, `step` or a run of
them, so that it says the operation completes. A record update `{ s with … }` names every field that may
differ: the rest is the frame. -/

open Sys2Proof Sys2Proof.Machine

/-! ## Commands: decoding, encoding, stepping -/

/-- R88, R84: words written out from the spec's encodings decode to their operations. -/
def Obligations.SpecWordsDecode : Prop :=
  decode 0x00000000 [] = .instr .nop ∧
  decode 0x01000000 [] = .instr .crcInit ∧
  decode 0x02000031 [] = .instr (.crcByte 0x31) ∧
  decode 0x03000000 [] = .instr .crcRead ∧
  decode 0x10000000 (List.replicate 50 7) = .instr (.fecEncode (List.replicate 50 7)) ∧
  decode 0x11000000 (List.replicate 58 7) = .instr (.fecSyndrome (List.replicate 58 7)) ∧
  decode 0x20000000 (List.replicate 50 7) = .instr (.txAssemble (List.replicate 50 7)) ∧
  decode 0x300000FE [] = .instr (.rxPush 0xFE) ∧
  decode 0x31000000 (List.replicate 64 7) = .instr (.rxValidate (List.replicate 64 7)) ∧
  decode 0x40000000 [] = .instr .arbTick ∧
  decode 0x410305DC [] = .instr (.chSample 3 1500) ∧
  decode 0x501B0000 [] = .instr (.regRead 0x1B)

/-- R80 to R84: decoding the command of a well-formed operation gives it back, every operand at every
value the encoding admits. -/
def Obligations.DecodeOfEncode : Prop :=
  ∀ i : Instr, i.wellFormed = true → decode (encodeWord i) (encodeVin i) = .instr i

/-- R86, R87: a command has at most one meaning, and it is the encoding of that meaning. -/
def Obligations.EncodeOfDecode : Prop :=
  ∀ (w : Word) (vin : List Byte) (i : Instr), decode w vin = .instr i →
    i.wellFormed = true ∧ encode i = (w, vin)

/-- R85: the checks and their order, in terms of the match and mask columns of R84. -/
def Obligations.DecodeChecksInOrder : Prop :=
  ∀ (w : Word) (vin : List Byte),
    (decode w vin = .illegal .illOpcode ↔ ∀ o : Opcode, w.extractLsb' 24 8 ≠ o.byte) ∧
    (decode w vin = .illegal .illReserved ↔
      (∃ o : Opcode, w.extractLsb' 24 8 = o.byte) ∧ ∀ o : Opcode, w &&& o.maskBits ≠ o.matchBits) ∧
    (decode w vin = .illegal .illVin ↔
      ∃ o : Opcode, w &&& o.maskBits = o.matchBits ∧ vin.length ≠ o.vinLen) ∧
    ((∃ i, decode w vin = .instr i) ↔
      ∃ o : Opcode, w &&& o.maskBits = o.matchBits ∧ vin.length = o.vinLen)

/-- R86: the 244 illegal opcode values, by their ranges. -/
def Obligations.IllegalOpcodeRanges : Prop :=
  ∀ (w : Word) (vin : List Byte), decode w vin = .illegal .illOpcode ↔
    (0x04 ≤ w.toNat / 2 ^ 24 ∧ w.toNat / 2 ^ 24 ≤ 0x0F) ∨
    (0x12 ≤ w.toNat / 2 ^ 24 ∧ w.toNat / 2 ^ 24 ≤ 0x1F) ∨
    (0x21 ≤ w.toNat / 2 ^ 24 ∧ w.toNat / 2 ^ 24 ≤ 0x2F) ∨
    (0x32 ≤ w.toNat / 2 ^ 24 ∧ w.toNat / 2 ^ 24 ≤ 0x3F) ∨
    (0x42 ≤ w.toNat / 2 ^ 24 ∧ w.toNat / 2 ^ 24 ≤ 0x4F) ∨
    (0x51 ≤ w.toNat / 2 ^ 24 ∧ w.toNat / 2 ^ 24 ≤ 0xFF)

/-- R3, R85: a step runs the decoded operation on the state from which the command has been taken; a
command that does not decode raises its cause and changes nothing else (R300). The inputs list is the
model's own form of the host (log entry 4). -/
def Obligations.StepRunsDecodedCommand : Prop :=
  ∀ (s : State) (w : Word) (vin : List Byte) (rest : List HostInput),
    s.inputs = .command w vin :: rest →
    (∀ i, decode w vin = .instr i → step s = exec i { s with inputs := rest }) ∧
    (∀ c, decode w vin = .illegal c →
      step s = .next { s with inputs := rest, responses := s.responses ++ [⟨.illegal, c.code, []⟩] })

/-- R400: the reset input sets every state element to its value of R35, keeps the parameter and produces no
response. RXBUF is not said: it is any value. The last clause, that the inputs the host has still presented
stay (`t.inputs = rest`), is the model's own choice and no part of R400: log entry 18. -/
def Obligations.ResetInputResets : Prop :=
  ∀ (s : State) (rest : List HostInput), s.inputs = .reset :: rest →
    ∃ t, step s = .next t ∧ t.syncCursor.val = 0 ∧ t.crcAcc = 0xFFFF ∧ t.timeoutCnt = 0 ∧
      (∀ ch : Fin 8, t.rcin[ch] = 0 ∧ t.rccmd[ch] = 0) ∧
      t.cntDiscard = 0 ∧ t.cntValid = 0 ∧ t.cntCorrected = 0 ∧ t.cntFailed = 0 ∧
      t.timeoutThreshold = s.timeoutThreshold ∧ t.responses = s.responses ∧ t.inputs = rest

/-- R35, R401: the state after power-on reset, for every parameter, and what it means: Seeking, and no
override hides a sample. RXBUF is not said. -/
def Obligations.PowerOnState : Prop :=
  State.reset = State.resetWith Config.timeoutThreshold ∧
  ∀ τ : Half,
    (State.resetWith τ).syncState = .seeking ∧ (State.resetWith τ).crcAcc = 0xFFFF ∧
    (State.resetWith τ).timeoutCnt = 0 ∧ (State.resetWith τ).timeoutThreshold = τ ∧
    (∀ ch : Fin 8, (State.resetWith τ).rcin[ch] = 0 ∧ (State.resetWith τ).rccmd[ch] = 0) ∧
    (State.resetWith τ).cntDiscard = 0 ∧ (State.resetWith τ).cntValid = 0 ∧
    (State.resetWith τ).cntCorrected = 0 ∧ (State.resetWith τ).cntFailed = 0 ∧
    ∀ (ch : Byte) (raw : Half), ∃ t, exec (.chSample ch raw) (State.resetWith τ) = .next t ∧
      t.responses = [⟨.ok, raw, []⟩]

/-- R30: the parameter is in 1..65535, and an instance with 0 is refused. -/
def Obligations.InstanceNeedsThreshold : Prop :=
  State.build 0 = none ∧ Config.timeoutThreshold ≠ 0 ∧
  ∀ τ : Half, τ ≠ 0 → ∃ s, State.build τ = some s ∧ s.timeoutThreshold = τ

/-- R406, R301: the block never halts by itself; a step stops only when the host has presented nothing
(the fault is the model's form of "stuck", log entry 6). That a step takes the oldest of a list of inputs is
the model's form of the host (log entry 4). -/
def Obligations.StopsOnlyWithoutInput : Prop :=
  ∀ s : State, (s.inputs = [] → step s = .fault .noOperation) ∧
    (s.inputs ≠ [] → ∃ t, step s = .next t ∧ t.inputs = s.inputs.tail)

/-- R3, R11: every command is answered by exactly one response, whatever the state and the command. The
clauses on the inputs and on the counter of free bytes speak of the model's own fields (log entries 3
and 4). -/
def Obligations.EveryCommandAnsweredOnce : Prop :=
  ∀ (s : State) (w : Word) (vin : List Byte) (rest : List HostInput),
    s.inputs = .command w vin :: rest →
    ∃ t r, step s = .next t ∧ t.responses = s.responses ++ [r] ∧ t.inputs = rest ∧
      t.timeoutThreshold = s.timeoutThreshold ∧ t.freeCount = s.freeCount

/-- R300: an operation that answers ILLEGAL has written no state element, its response carries the first
applicable cause and no bytes, and the block goes on. -/
def Obligations.IllegalCommandWritesNothing : Prop :=
  ∀ (s t : State) (w : Word) (vin : List Byte) (rest : List HostInput) (r : Response),
    s.inputs = .command w vin :: rest → step s = .next t → t.responses = s.responses ++ [r] →
    r.status = .illegal →
      SameRegisters s t ∧ r.vout = [] ∧
      ((decode w vin = .illegal .illOpcode ∧ r.value = 1) ∨
       (decode w vin = .illegal .illReserved ∧ r.value = 2) ∨
       (decode w vin = .illegal .illVin ∧ r.value = 3) ∨
       (∃ reg : Byte, decode w vin = .instr (.regRead reg) ∧ r.value = 4 ∧
        ((0x08 ≤ reg.toNat ∧ reg.toNat ≤ 0x0F) ∨ 0x20 ≤ reg.toNat)))

/-- R60, R406: presenting well-formed operations and running the machine is running their meanings in
order. -/
def Obligations.RunIsSequenceOfOperations : Prop :=
  ∀ (is : List Instr) (s : State), s.inputs = [] → (∀ i ∈ is, i.wellFormed = true) →
    Host.Core.run core is.length (s.present (is.map commandOf)) = execAll is s

/-! ## Invariants and whole-machine rules -/

/-- R26, R28, R24 at reset, for every legal parameter and for the machine's own reset state. -/
def Obligations.InvariantAtReset : Prop :=
  (∀ τ : Half, τ ≠ 0 → (State.resetWith τ).Inv) ∧ State.reset.Inv

/-- R26, R28, R24: every step keeps the timeout counter under the threshold, the sentinel out of the
override slots, and the magic in front of the accepted bytes. -/
def Obligations.InvariantKeptByStep : Prop :=
  ∀ s t : State, s.Inv → step s = .next t → t.Inv

/-- R57, R300: every response has 0, 8 or 64 bytes, and an ILLEGAL one a cause 1..4 and no bytes. -/
def Obligations.ResponseShapeKept : Prop :=
  ∀ s t : State, (∀ r ∈ s.responses, r.Shaped) → step s = .next t → ∀ r ∈ t.responses, r.Shaped

/-- R23 to R30: which operations write each element; the parameter is never written. -/
def Obligations.WritersOfEachElement : Prop :=
  ∀ s t : State, step s = .next t →
    t.timeoutThreshold = s.timeoutThreshold ∧
    ((t.syncCursor ≠ s.syncCursor ∨ t.rxbuf ≠ s.rxbuf ∨ t.cntDiscard ≠ s.cntDiscard ∨
        t.cntValid ≠ s.cntValid ∨ t.cntCorrected ≠ s.cntCorrected ∨ t.cntFailed ≠ s.cntFailed) →
      s.NextResets ∨ ∃ b, s.NextRuns (.rxPush b)) ∧
    (t.crcAcc ≠ s.crcAcc → s.NextResets ∨ s.NextRuns .crcInit ∨ ∃ b, s.NextRuns (.crcByte b)) ∧
    (t.timeoutCnt ≠ s.timeoutCnt →
      s.NextResets ∨ s.NextRuns .arbTick ∨ ∃ b, s.NextRuns (.rxPush b) ∧ acceptsFrame (.rxPush b) s = true) ∧
    (t.rcin ≠ s.rcin → s.NextResets ∨ ∃ ch raw, ch.toNat < 8 ∧ s.NextRuns (.chSample ch raw)) ∧
    (t.rccmd ≠ s.rccmd →
      s.NextResets ∨ s.NextRuns .arbTick ∨ ∃ b, s.NextRuns (.rxPush b) ∧ acceptsFrame (.rxPush b) s = true)

/-- R306: an override can only come from a validated frame. Whenever a step makes a slot hold a new active
override, it completed a frame, and the slot's value is that frame's, whose checksum holds. -/
def Obligations.OverridesOnlyFromValidatedFrames : Prop :=
  ∀ (s t : State) (ch : Fin 8), step s = .next t → t.rccmd[ch] ≠ s.rccmd[ch] → t.rccmd[ch] ≠ 0 →
    ∃ b v g, s.NextRuns (.rxPush b) ∧ s.syncCursor.val = 63 ∧
      validate (s.storeRx b).rxbuf.toList = (v, g) ∧ v ≠ .failed ∧ g.length = 64 ∧
      crc16 ((g.drop 4).take 58) = le16 (byteAt g 62) (byteAt g 63) ∧
      t.rccmd[ch] = le16 (byteAt g (4 + 2 * ch.val)) (byteAt g (5 + 2 * ch.val)) ∧ t.rccmd[ch] ≠ 0xFFFF

/-- R24, R33: the stale bytes of RXBUF are unobservable. Two states that differ in nothing else step to
states that differ in nothing else, with the same responses. -/
def Obligations.StaleBytesUnobservable : Prop :=
  ∀ s t s' : State, AgreeButStale s t → step s = .next s' → ∃ t', step t = .next t' ∧ AgreeButStale s' t'

/-! ## CRC-16 -/

/-- R110: the step, in arithmetic on numbers. -/
def Obligations.CrcStepArithmetic : Prop :=
  ∀ (acc : Half) (b : Byte),
    (crcStep acc b).toNat =
      ((acc.toNat * 256) ^^^
        (((acc.toNat / 256 ^^^ b.toNat) ^^^ (acc.toNat / 256 ^^^ b.toNat) / 16) * 4096) ^^^
        (((acc.toNat / 256 ^^^ b.toNat) ^^^ (acc.toNat / 256 ^^^ b.toNat) / 16) * 32) ^^^
        ((acc.toNat / 256 ^^^ b.toNat) ^^^ (acc.toNat / 256 ^^^ b.toNat) / 16)) % 65536

/-- R112, R113, R114: what the three operations of the engine do, and that they do nothing else. The value
CRC.INIT answers is that of rule R112 (the vectors of 95_test_vectors.md say 0, log entry 7). -/
def Obligations.CrcOperationsComplete : Prop :=
  ∀ (s : State) (b : Byte),
    exec .crcInit s = .next { s with
      crcAcc := 0xFFFF, responses := s.responses ++ [⟨.ok, 0xFFFF, []⟩] } ∧
    exec (.crcByte b) s = .next { s with
      crcAcc := crcStep s.crcAcc b, responses := s.responses ++ [⟨.ok, crcStep s.crcAcc b, []⟩] } ∧
    exec .crcRead s = .next { s with responses := s.responses ++ [⟨.ok, s.crcAcc, []⟩] }

/-- R89, R111: CRC.BLOCK computes `crc16` of its bytes, whatever the accumulator held, and disturbs
nothing else. -/
def Obligations.CrcBlockComputesCrc16 : Prop :=
  crc16 [] = 0xFFFF ∧ (∀ bytes b, crc16 (bytes ++ [b]) = crcStep (crc16 bytes) b) ∧
  ∀ (bytes : List Byte) (s : State), ∃ (t : State) (rs : List Response),
    execAll (Pseudo.crcBlock bytes).expand s = .next t ∧ rs.length = bytes.length + 1 ∧
    t = { s with crcAcc := crc16 bytes, responses := s.responses ++ rs ++ [⟨.ok, crc16 bytes, []⟩] }

/-- R115: the step computes the same as the bitwise MSB-first shift register with polynomial 0x1021. -/
def Obligations.CrcIsShiftRegister : Prop :=
  ∀ (acc : Half) (b : Byte), crcStep acc b = bitwiseCrcStep acc b

/-- R116: a change confined to one byte, a single flipped bit among them, changes the result, whatever the
length. -/
def Obligations.SingleByteErrorChangesCrc : Prop :=
  ∀ (bytes : List Byte) (j : Nat) (e : Byte), j < bytes.length → e ≠ 0 →
    crc16 (flipByte bytes j e) ≠ crc16 bytes

/-! ## Parity and syndrome -/

/-- R130: the parity of a data span is what the rule's accumulation loop computes. -/
def Obligations.ParityIsAccumulationLoop : Prop :=
  ∀ d : List Byte, d.length = 50 → parity d = parityLoop d

/-- R132: groups 0 to 5 have 8 positions each, group 6 has two and group 7 none, so in every frame that
TX.ASSEMBLE builds parity byte 7 (frame byte 61) is 0 and parity byte 6 (frame byte 60) is
`d[48] ^ d[49]`. -/
def Obligations.ParityGroupSizes : Prop :=
  (∀ k, k < 6 → group k = List.range' (8 * k) 8) ∧ group 6 = [48, 49] ∧ group 7 = [] ∧
  ∀ d : List Byte, d.length = 50 →
    byteAt (parity d) 6 = byteAt d 48 ^^^ byteAt d 49 ∧ byteAt (parity d) 7 = 0 ∧
    ∀ s : State, ∃ t r, exec (.txAssemble d) s = .next t ∧ t.responses = s.responses ++ [r] ∧
      byteAt r.vout 60 = byteAt d 48 ^^^ byteAt d 49 ∧ byteAt r.vout 61 = 0

/-- R133: the discrepancy of group `k` is the recomputed parity of the group's data bytes against the
received parity byte, and bit `k` of the mask is the flag of group `k`. Group 7 has no data, so its
discrepancy is the parity byte itself. -/
def Obligations.SyndromeAndFlags : Prop :=
  ∀ p : List Byte, p.length = 58 →
    syndrome p = xorBytes (parity (p.take 50)) (p.drop 50) ∧
    (∀ k, k < 8 →
      byteAt (syndrome p) k = xorOver ((List.range 50).filter fun i => i / 8 == k) p ^^^ byteAt p (50 + k)) ∧
    (∀ k, k < 8 → (flagMask (syndrome p)).getLsbD k = (byteAt (syndrome p) k != 0)) ∧
    byteAt (syndrome p) 7 = byteAt p 57

/-- R135: parity and syndrome are XOR-linear, so the syndrome of a consistent payload with an error
pattern is that of the pattern alone; an error in data byte `j` flags group `j / 8` alone, one in parity
byte `k` group `k` alone, and one in the magic or the checksum none. -/
def Obligations.SyndromeIsLinear : Prop :=
  (∀ d e : List Byte, d.length = 50 → e.length = 50 →
    parity (xorBytes d e) = xorBytes (parity d) (parity e)) ∧
  (∀ p e : List Byte, p.length = 58 → e.length = 58 →
    syndrome (xorBytes p e) = xorBytes (syndrome p) (syndrome e)) ∧
  (∀ p e : List Byte, p.length = 58 → e.length = 58 → parityConsistent p = true →
    syndrome (xorBytes p e) = syndrome e) ∧
  (∀ (p : List Byte) (j : Nat) (e : Byte), p.length = 58 → parityConsistent p = true → j < 50 →
    syndrome (flipByte p j e) = (List.replicate 8 0).set (j / 8) e) ∧
  (∀ (p : List Byte) (k : Nat) (e : Byte), p.length = 58 → parityConsistent p = true → k < 8 →
    syndrome (flipByte p (50 + k) e) = (List.replicate 8 0).set k e) ∧
  (∀ (f : List Byte) (j : Nat) (e : Byte), f.length = 64 → j < 4 ∨ 62 ≤ j →
    syndrome (payloadSpan (flipByte f j e)) = syndrome (payloadSpan f))

/-! ## Vector operations -/

/-- R131, R134, R100, R176, R82: each vector operation of the required length answers its rule's response
and writes nothing. -/
def Obligations.VectorOperationsComplete : Prop :=
  ∀ (s : State) (v : List Byte),
    (v.length = 50 →
      exec (.fecEncode v) s = .next { s with responses := s.responses ++ [⟨.ok, 0, parityLoop v⟩] }) ∧
    (v.length = 58 → ∃ value : Half, value.toNat < 256 ∧
      (∀ k, k < 8 → value.getLsbD k = (byteAt (syndrome v) k != 0)) ∧
      exec (.fecSyndrome v) s = .next { s with
        responses := s.responses ++ [⟨.ok, value, syndrome v⟩] }) ∧
    (v.length = 50 →
      exec (.txAssemble v) s = .next { s with
        responses := s.responses ++ [⟨.ok, crc16 (v ++ parityLoop v), txFrame v⟩] }) ∧
    (v.length = 64 → ∃ verdict g, validateLoop v = (verdict, g) ∧
      exec (.rxValidate v) s = .next { s with responses := s.responses ++
        [⟨.ok, match verdict with | .valid => 2 | .corrected => 3 | .failed => 4, g⟩] })

/-- R82, R300 (the model's reading of terms no command decodes to, log entry 8): a vector operation of any
other length answers ILLEGAL with cause 3 and writes nothing. -/
def Obligations.WrongVinLengthRaises : Prop :=
  ∀ (s : State) (v : List Byte) (i : Instr),
    (i = .fecEncode v ∧ v.length ≠ 50) ∨ (i = .fecSyndrome v ∧ v.length ≠ 58) ∨
    (i = .txAssemble v ∧ v.length ≠ 50) ∨ (i = .rxValidate v ∧ v.length ≠ 64) →
    exec i s = .next { s with responses := s.responses ++ [⟨.illegal, 3, []⟩] }

/-- R100, R70, R71: the frame TX.ASSEMBLE builds, byte by byte: magic, data span, parity, and the checksum
over bytes 4..61, low byte first. -/
def Obligations.TxFrameLayout : Prop :=
  ∀ d : List Byte, d.length = 50 →
    (txFrame d).length = 64 ∧ (txFrame d).take 4 = [0xFE, 0xED, 0xBE, 0xEF] ∧
    ((txFrame d).drop 4).take 50 = d ∧ ((txFrame d).drop 54).take 8 = parityLoop d ∧
    byteAt (txFrame d) 62 = (crc16 (((txFrame d).drop 4).take 58)).extractLsb' 0 8 ∧
    byteAt (txFrame d) 63 = (crc16 (((txFrame d).drop 4).take 58)).extractLsb' 8 8

/-- R102: round trip. The frame TX.ASSEMBLE answers, given to RX.VALIDATE, answers Valid and the same 64
bytes; those bytes pushed into a synchronizer at cursor 0 are accepted one by one and give FRAME_VALID on
the 64th push. -/
def Obligations.AssembledFrameRoundTrip : Prop :=
  ∀ (d : List Byte) (s : State), d.length = 50 → ∃ f t u,
    exec (.txAssemble d) s = .next t ∧ (t.responses.getLast?).map (·.vout) = some f ∧ f.length = 64 ∧
    exec (.rxValidate f) t = .next u ∧ u.responses.getLast? = some ⟨.ok, 2, f⟩ ∧
    ∀ s' : State, s'.syncCursor.val = 0 → ∃ t', execAll (f.map .rxPush) s' = .next t' ∧
      t'.syncCursor.val = 0 ∧
      t'.responses = s'.responses ++ List.replicate 63 ⟨.ok, 0, []⟩ ++ [⟨.ok, 2, f⟩]

/-! ## The validator -/

/-- R175: `validate` is the rule's two nested loops. -/
def Obligations.ValidateIsNestedLoops : Prop :=
  ∀ f : List Byte, f.length = 64 → validate f = validateLoop f

/-- R173 and 90_conflicts.md C1: at most 50 trials, each changing at most one data-span byte. -/
def Obligations.AtMostFiftyTrials : Prop :=
  ∀ p : List Byte, p.length = 58 →
    (trials p).length ≤ 50 ∧ ∀ q ∈ trials p, ∃ i e, i < 50 ∧ q = flipByte p i e

/-- R171, R174: Valid exactly when the checksum holds, and then the frame is unmodified; Failed exactly
when it does not hold and no trial of a flagged group matches, and then too the frame is unmodified. -/
def Obligations.ValidAndFailedVerdicts : Prop :=
  ∀ f : List Byte, f.length = 64 →
    ((validate f).1 = .valid ↔ crc16 ((f.drop 4).take 58) = le16 (byteAt f 62) (byteAt f 63)) ∧
    ((validate f).1 = .failed ↔
      crc16 ((f.drop 4).take 58) ≠ le16 (byteAt f 62) (byteAt f 63) ∧
      ∀ i, i < 50 → discrepancy ((f.drop 4).take 58) (i / 8) ≠ 0 →
        crc16 (flipByte ((f.drop 4).take 58) i (discrepancy ((f.drop 4).take 58) (i / 8))) ≠
          le16 (byteAt f 62) (byteAt f 63)) ∧
    ((validate f).1 ≠ .corrected → (validate f).2 = f)

/-- R173: a Corrected frame differs from the received one in one data-span byte of a flagged group, by that
group's discrepancy, and it is the first trial in ascending order whose checksum is the transmitted one. -/
def Obligations.CorrectedIsFirstMatchingTrial : Prop :=
  ∀ f g : List Byte, f.length = 64 → validate f = (.corrected, g) →
    ∃ i, i < 50 ∧ discrepancy ((f.drop 4).take 58) (i / 8) ≠ 0 ∧
      g = flipByte f (4 + i) (discrepancy ((f.drop 4).take 58) (i / 8)) ∧
      crc16 ((g.drop 4).take 58) = le16 (byteAt f 62) (byteAt f 63) ∧
      ∀ j, j < i → discrepancy ((f.drop 4).take 58) (j / 8) ≠ 0 →
        crc16 (flipByte ((f.drop 4).take 58) j (discrepancy ((f.drop 4).take 58) (j / 8))) ≠
          le16 (byteAt f 62) (byteAt f 63)

/-- R171, R173 (derived): what the validator accepts, Valid or Corrected, validates as Valid unchanged. -/
def Obligations.AcceptedFrameIsValid : Prop :=
  ∀ f : List Byte, f.length = 64 → (validate f).1 ≠ .failed →
    validate (validate f).2 = (.valid, (validate f).2) ∧ (validate f).2.length = 64

/-- R177, read for a frame whose parity bytes are those of its data span, as every frame of TX.ASSEMBLE
(log entry 15): the outcome table when one byte is changed. -/
def Obligations.SingleByteErrorOutcomes : Prop :=
  ∀ (f0 : List Byte) (j : Nat) (e : Byte), f0.length = 64 →
    crc16 ((f0.drop 4).take 58) = le16 (byteAt f0 62) (byteAt f0 63) →
    parityConsistent ((f0.drop 4).take 58) = true → j < 64 → e ≠ 0 →
      validate f0 = (.valid, f0) ∧
      (j < 4 → validate (flipByte f0 j e) = (.valid, flipByte f0 j e)) ∧
      (4 ≤ j ∧ j < 54 → validate (flipByte f0 j e) = (.corrected, f0)) ∧
      (54 ≤ j → validate (flipByte f0 j e) = (.failed, flipByte f0 j e))

/-! ## The synchronizer -/

/-- R151: the Seeking transition. A byte equal to the expected magic byte is stored and advances the
cursor, which at 4 is Accumulating; any other is discarded, counted modulo 2^16, and puts the cursor at
0. -/
def Obligations.RxPushWhileSeeking : Prop :=
  ∀ (s : State) (b : Byte) (h : s.syncCursor.val < 4),
    (b = [0xFE, 0xED, 0xBE, 0xEF].getD s.syncCursor.val 0 →
      exec (.rxPush b) s = .next { s with
        syncCursor := ⟨s.syncCursor.val + 1, Nat.lt_trans (Nat.add_lt_add_right h 1) (by decide)⟩
        rxbuf := s.rxbuf.set s.syncCursor.val b s.syncCursor.isLt
        responses := s.responses ++ [⟨.ok, 0, []⟩] }) ∧
    (b ≠ [0xFE, 0xED, 0xBE, 0xEF].getD s.syncCursor.val 0 →
      exec (.rxPush b) s = .next { s with
        syncCursor := 0
        cntDiscard := BitVec.ofNat 16 ((s.cntDiscard.toNat + 1) % 65536)
        responses := s.responses ++ [⟨.ok, 1, []⟩] }) ∧
    (s.syncCursor.val = 3 → b = 0xEF →
      ∃ t, exec (.rxPush b) s = .next t ∧ t.syncCursor.val = 4 ∧ t.syncState = .accumulating)

/-- R152: while Accumulating, a byte that does not complete the frame is stored at the cursor, whatever
its value, and the cursor advances. -/
def Obligations.RxPushWhileAccumulating : Prop :=
  ∀ (s : State) (b : Byte) (h : s.syncCursor.val + 1 < 64), 4 ≤ s.syncCursor.val →
    exec (.rxPush b) s = .next { s with
      syncCursor := ⟨s.syncCursor.val + 1, h⟩
      rxbuf := s.rxbuf.set s.syncCursor.val b s.syncCursor.isLt
      responses := s.responses ++ [⟨.ok, 0, []⟩] }

/-- R152, R153, R190: the byte that completes a frame: the cursor returns to 0, the 64 bytes are validated,
exactly one counter moves, and a Valid or Corrected frame resets the timeout counter and writes every slot
whose transmitted value is not the sentinel. -/
def Obligations.RxPushCompletesFrame : Prop :=
  ∀ (s : State) (b : Byte) (f g : List Byte) (v : Verdict),
    s.syncCursor.val = 63 → f = s.rxbuf.toList.set 63 b → validate f = (v, g) →
    ∃ t : State, exec (.rxPush b) s = .next t ∧
      (v = .valid → t = { s with
        syncCursor := 0, rxbuf := t.rxbuf, cntValid := s.cntValid + 1, timeoutCnt := 0, rccmd := t.rccmd
        responses := s.responses ++ [⟨.ok, 2, g⟩] }) ∧
      (v = .corrected → t = { s with
        syncCursor := 0, rxbuf := t.rxbuf, cntCorrected := s.cntCorrected + 1, timeoutCnt := 0
        rccmd := t.rccmd, responses := s.responses ++ [⟨.ok, 3, g⟩] }) ∧
      (v = .failed → t = { s with
        syncCursor := 0, rxbuf := t.rxbuf, cntFailed := s.cntFailed + 1
        responses := s.responses ++ [⟨.ok, 4, []⟩] }) ∧
      t.rxbuf.toList = f ∧
      (v ≠ .failed → ∀ ch : Fin 8, t.rccmd[ch] =
        if byteAt g (4 + 2 * ch.val) = 0xFF ∧ byteAt g (5 + 2 * ch.val) = 0xFF then s.rccmd[ch]
        else BitVec.ofNat 16
          ((byteAt g (4 + 2 * ch.val)).toNat + 256 * (byteAt g (5 + 2 * ch.val)).toNat))

/-- R156: a well-formed frame pushed into any state is reassembled exactly, Valid on its 64th byte, if and
only if the cursor is 0 just before its first byte. -/
def Obligations.FrameRecoveredIffCursorZero : Prop :=
  ∀ (f : List Byte) (s : State), wellFormedFrame f = true →
    ∃ t, execAll (f.map .rxPush) s = .next t ∧
      (t.responses.getLast? = some ⟨.ok, 2, f⟩ ↔ s.syncCursor.val = 0)

/-! ## The arbiter -/

/-- R192: ARB.TICK increments, compares with `>=`, and at the threshold clears the counter and all eight
overrides. The premise holds in every reachable state (R26, InvariantKeptByStep); it leaves out the one
counter value at which the 16-bit increment would wrap (log entry 20). -/
def Obligations.ArbTickCountsAndClears : Prop :=
  ∀ s : State, s.timeoutCnt.toNat < 65535 →
    (s.timeoutThreshold.toNat ≤ s.timeoutCnt.toNat + 1 →
      exec .arbTick s = .next { s with
        timeoutCnt := 0, rccmd := Vector.replicate 8 0, responses := s.responses ++ [⟨.ok, 1, []⟩] }) ∧
    (s.timeoutCnt.toNat + 1 < s.timeoutThreshold.toNat →
      exec .arbTick s = .next { s with
        timeoutCnt := BitVec.ofNat 16 (s.timeoutCnt.toNat + 1)
        responses := s.responses ++ [⟨.ok, 0, []⟩] })

/-- R194, R195: CH.SAMPLE records the raw sample of channels 0..7 and answers the override when one is
active, else the raw sample; any other index writes nothing and answers the raw sample. -/
def Obligations.ChSampleMergesOverride : Prop :=
  ∀ (s : State) (ch : Byte) (raw : Half),
    (∀ h : ch.toNat < 8, exec (.chSample ch raw) s = .next { s with
      rcin := s.rcin.set ch.toNat raw h
      responses := s.responses ++
        [⟨.ok, if s.rccmd[ch.toNat]'h = 0 then raw else s.rccmd[ch.toNat]'h, []⟩] }) ∧
    (8 ≤ ch.toNat → exec (.chSample ch raw) s = .next { s with
      responses := s.responses ++ [⟨.ok, raw, []⟩] })

/-- R193: the failsafe. From a timeout counter of 0, over any run in which no command frame is accepted,
`n` ticks leave the counter at `n` modulo the threshold; the overrides stand while `n` is below the
threshold and are all cleared once it is reached. -/
def Obligations.FailsafeAfterThresholdTicks : Prop :=
  ∀ (is : List Instr) (s : State), s.timeoutCnt = 0 → s.timeoutThreshold ≠ 0 → Quiet is s →
    ∃ t, execAll is s = .next t ∧
      t.timeoutCnt.toNat = is.count .arbTick % s.timeoutThreshold.toNat ∧
      (is.count .arbTick < s.timeoutThreshold.toNat → t.rccmd = s.rccmd) ∧
      (s.timeoutThreshold.toNat ≤ is.count .arbTick → ∀ ch : Fin 8, t.rccmd[ch] = 0)

/-- R62: a CH.SAMPLE after the RX.PUSH that accepts a command frame answers the override that frame
carries, and one before it the override of before. -/
def Obligations.SampleSeesOverridesOfItsPlace : Prop :=
  ∀ (s : State) (b : Byte) (ch : Fin 8) (raw : Half) (v : Verdict) (g : List Byte),
    s.syncCursor.val = 63 → validate (s.rxbuf.toList.set 63 b) = (v, g) → v ≠ .failed →
    commandValue g ch.val ≠ 0 → commandValue g ch.val ≠ 0xFFFF →
    (∃ t, execAll [.rxPush b, .chSample (BitVec.ofNat 8 ch.val) raw] s = .next t ∧
      t.responses.getLast? = some ⟨.ok, commandValue g ch.val, []⟩) ∧
    (∃ t, execAll [.chSample (BitVec.ofNat 8 ch.val) raw, .rxPush b] s = .next t ∧
      t.responses[s.responses.length]? =
        some ⟨.ok, if s.rccmd[ch] = 0 then raw else s.rccmd[ch], []⟩ ∧
      t.rccmd[ch] = commandValue g ch.val)

/-! ## Control and status -/

/-- R210: NOP answers 0 and changes nothing; it is not a periodic cycle. -/
def Obligations.NopDoesNothing : Prop :=
  ∀ s : State, ∃ t, exec .nop s = .next t ∧ SameRegisters s t ∧
    t.responses = s.responses ++ [⟨.ok, 0, []⟩] ∧ t.inputs = s.inputs

/-- R211, R32: REG.READ answers each register of the map, and writes nothing. -/
def Obligations.RegReadAnswersRegisterMap : Prop :=
  ∀ (s : State) (reg : Byte) (v : Half),
    (reg = 0x00 ∧ v = BitVec.ofNat 16 s.syncCursor.val) ∨ (reg = 0x01 ∧ v = s.crcAcc) ∨
    (reg = 0x02 ∧ v = s.timeoutCnt) ∨ (reg = 0x03 ∧ v = s.timeoutThreshold) ∨
    (reg = 0x04 ∧ v = s.cntDiscard) ∨ (reg = 0x05 ∧ v = s.cntValid) ∨
    (reg = 0x06 ∧ v = s.cntCorrected) ∨ (reg = 0x07 ∧ v = s.cntFailed) ∨
    (∃ ch : Fin 8, reg = 0x10 + BitVec.ofNat 8 ch.val ∧ v = s.rcin[ch]) ∨
    (∃ ch : Fin 8, reg = 0x18 + BitVec.ofNat 8 ch.val ∧ v = s.rccmd[ch]) →
    exec (.regRead reg) s = .next { s with responses := s.responses ++ [⟨.ok, v, []⟩] }

/-- R211: REG.READ of a reserved number raises IllegalCommand with cause 4 and writes nothing. -/
def Obligations.RegReadRejectsReservedNumbers : Prop :=
  ∀ (s : State) (reg : Byte),
    (0x08 ≤ reg.toNat ∧ reg.toNat ≤ 0x0F) ∨ (0x20 ≤ reg.toNat ∧ reg.toNat ≤ 0xFF) →
    exec (.regRead reg) s = .next { s with responses := s.responses ++ [⟨.illegal, 4, []⟩] }

/-- R58: the pure operations write no state, so issuing one twice gives the same response twice; CRC.INIT
and CH.SAMPLE write the same state twice; CRC.BYTE, RX.PUSH and ARB.TICK are not idempotent. -/
def Obligations.PureAndIdempotentOperations : Prop :=
  (∃ b s t u, exec (.crcByte b) s = .next t ∧ exec (.crcByte b) t = .next u ∧ u.crcAcc ≠ t.crcAcc) ∧
  (∃ b s t u, exec (.rxPush b) s = .next t ∧ exec (.rxPush b) t = .next u ∧ u.syncCursor ≠ t.syncCursor) ∧
  (∃ s t u, exec .arbTick s = .next t ∧ exec .arbTick t = .next u ∧ u.timeoutCnt ≠ t.timeoutCnt) ∧
  ∀ (i : Instr) (s : State),
    ((i.opcode ∈ [.nop, .crcRead, .fecEncode, .fecSyndrome, .txAssemble, .rxValidate, .regRead] ∨
      i.opcode ∈ [.crcInit, .chSample]) →
      ∃ t u r, exec i s = .next t ∧ exec i t = .next u ∧ t.responses = s.responses ++ [r] ∧
        u.responses = t.responses ++ [r] ∧ SameRegisters t u) ∧
    (i.opcode ∈ [.nop, .crcRead, .fecEncode, .fecSyndrome, .txAssemble, .rxValidate, .regRead] →
      ∃ t, exec i s = .next t ∧ SameRegisters s t)

/-! ## Payload layouts (the host's side) -/

/-- R74, R75: packing the telemetry fields in order gives 50 bytes, and reading them at the offsets of the
table gives them back, from the data span and from the frame that carries it. -/
def Obligations.TelemetryFieldsRoundTrip : Prop :=
  ∀ t : Telemetry, t.pack.length = 50 ∧ Telemetry.unpack t.pack = t ∧
    Telemetry.unpack (dataSpan (payloadSpan (txFrame t.pack))) = t

/-- R76, R191: a command frame carries its eight values whatever the 42 filler bytes, and pushed from
cursor 0 it makes them the overrides, a sentinel leaving its slot as it was. -/
def Obligations.CommandFrameIsApplied : Prop :=
  ∀ (v : Vector Half 8) (filler : List Byte) (s : State), filler.length = 42 → s.syncCursor.val = 0 →
    wellFormedFrame (commandFrame v filler) = true ∧
    ∃ t, execAll ((commandFrame v filler).map .rxPush) s = .next t ∧ t.timeoutCnt = 0 ∧
      t.cntValid = s.cntValid + 1 ∧
      ∀ ch : Fin 8, t.rccmd[ch] = if v[ch] = 0xFFFF then s.rccmd[ch] else v[ch]
end

