-- ==== Sys2Proof/Laws/Crc.lean ====
section
/-! SUPPORT. The CRC step is linear over XOR, and so is a run of steps: the algebra on which every
error-detection property of spec/41_crc16.md and spec/44_validator.md rests. -/

namespace Sys2Proof.Machine

theorem crcFold_xor (a a' : Half) (b b' : Byte) :
    crcFold (a ^^^ a') (b ^^^ b') = crcFold a b ^^^ crcFold a' b' := by
  ext i hi
  simp only [crcFold, hiByte, BitVec.getElem_xor, BitVec.getElem_extractLsb', BitVec.getLsbD_xor,
    BitVec.getElem_ushiftRight, BitVec.getLsbD_extractLsb']
  cases a.getLsbD (8 + i) <;> cases a'.getLsbD (8 + i) <;> cases b[i] <;> cases b'[i] <;>
    cases a.getLsbD (8 + (4 + i)) <;> cases a'.getLsbD (8 + (4 + i)) <;> cases b.getLsbD (4 + i) <;>
    cases b'.getLsbD (4 + i) <;> simp

theorem zext16_xor (a b : Byte) : zext16 (a ^^^ b) = zext16 a ^^^ zext16 b := by
  simp [zext16, BitVec.setWidth_xor]

/-- The step is linear over XOR (R110 uses XOR and shifts alone). -/
theorem crcStep_xor (a a' : Half) (b b' : Byte) :
    crcStep (a ^^^ a') (b ^^^ b') = crcStep a b ^^^ crcStep a' b' := by
  simp only [crcStep, crcFold_xor, zext16_xor, BitVec.shiftLeft_xor_distrib]
  ac_rfl

theorem crcStep_zero : crcStep 0 0 = 0 := by decide

/-- A run of steps, from any accumulator. -/
def crcFrom (acc : Half) (bytes : List Byte) : Half := bytes.foldl crcStep acc

theorem crc16_eq_crcFrom (bytes : List Byte) : crc16 bytes = crcFrom crcInit bytes := rfl

@[simp] theorem crcFrom_nil (acc : Half) : crcFrom acc [] = acc := rfl

@[simp] theorem crcFrom_cons (acc : Half) (b : Byte) (bs : List Byte) :
    crcFrom acc (b :: bs) = crcFrom (crcStep acc b) bs := rfl

theorem crcFrom_append (acc : Half) (xs ys : List Byte) :
    crcFrom acc (xs ++ ys) = crcFrom (crcFrom acc xs) ys := List.foldl_append ..

/-- A run of steps is linear over XOR, for byte sequences of the same length. -/
theorem crcFrom_xor (a a' : Half) (xs ys : List Byte) (h : xs.length = ys.length) :
    crcFrom (a ^^^ a') (List.zipWith (fun x y => x ^^^ y) xs ys) = crcFrom a xs ^^^ crcFrom a' ys := by
  induction xs generalizing a a' ys with
  | nil => cases ys with
    | nil => rfl
    | cons y ys => simp at h
  | cons x xs ih => cases ys with
    | nil => simp at h
    | cons y ys =>
      simp only [List.zipWith_cons_cons, crcFrom_cons, crcStep_xor]
      exact ih _ _ _ (by simpa using h)

end Sys2Proof.Machine
end

