-- ==== Sys2Proof/Laws/Decode.lean ====
section
/-! SUPPORT. The fields of a packed command word, the opcode map read in both directions, and the decoder
said once: which check stops it, or the operation it answers. -/

namespace Sys2Proof

@[simp] theorem opcField_packWord (o a : Byte) (imm : Half) : opcField (packWord o a imm) = o := by
  ext i hi
  have h1 : ¬(24 + i < 24) := by omega
  have h2 : ¬(24 + i < 16) := by omega
  have h3 : 24 + i < 32 := by omega
  have h4 : 8 ≤ 24 + i - 16 := by omega
  have h5 : 16 ≤ 24 + i := by omega
  simp [opcField, packWord, hi, h1, h2, h3, BitVec.getLsbD_of_ge a _ h4, BitVec.getLsbD_of_ge imm _ h5]

@[simp] theorem aField_packWord (o a : Byte) (imm : Half) : aField (packWord o a imm) = a := by
  ext i hi
  have h1 : 16 + i < 24 := by omega
  have h2 : ¬(16 + i < 16) := by omega
  have h3 : 16 + i < 32 := by omega
  simp [aField, packWord, hi, h1, h2, h3]

@[simp] theorem immField_packWord (o a : Byte) (imm : Half) : immField (packWord o a imm) = imm := by
  ext i hi
  have h1 : i < 24 := by omega
  have h3 : i < 32 := by omega
  simp [immField, packWord, hi, h1, h3]

/-- A word is its three fields. -/
theorem packWord_fields (w : Word) : packWord (opcField w) (aField w) (immField w) = w := by
  simp only [packWord, opcField, aField, immField]
  ext i hi
  interval_cases i <;> simp

theorem aField_and (w m : Word) : aField (w &&& m) = aField w &&& aField m := by
  ext i hi
  simp [aField]

theorem immField_and (w m : Word) : immField (w &&& m) = immField w &&& immField m := by
  ext i hi
  simp [immField]

/-- With bits [23:0] zero, A and IMM are zero (formats N and V). -/
theorem fields_of_low24 {w : Word} (h : w &&& 0x00FFFFFF = 0) : aField w = 0 ∧ immField w = 0 := by
  have ha := (aField_and w 0x00FFFFFF).symm.trans (congrArg aField h)
  have hi := (immField_and w 0x00FFFFFF).symm.trans (congrArg immField h)
  rw [show aField 0x00FFFFFF = BitVec.allOnes 8 by decide, BitVec.and_allOnes] at ha
  rw [show immField 0x00FFFFFF = BitVec.allOnes 16 by decide, BitVec.and_allOnes] at hi
  exact ⟨ha, hi⟩

/-- With bits [15:0] zero, IMM is zero (format R). -/
theorem fields_of_low16 {w : Word} (h : w &&& 0x0000FFFF = 0) : immField w = 0 := by
  have hi := (immField_and w 0x0000FFFF).symm.trans (congrArg immField h)
  rwa [show immField 0x0000FFFF = BitVec.allOnes 16 by decide, BitVec.and_allOnes] at hi

/-- With bits [23:8] zero, A is zero and IMM is the byte operand (format B). -/
theorem fields_of_mid16 {w : Word} (h : w &&& 0x00FFFF00 = 0) :
    aField w = 0 ∧ immField w = (byteField w).setWidth 16 := by
  have ha := (aField_and w 0x00FFFF00).symm.trans (congrArg aField h)
  rw [show aField 0x00FFFF00 = BitVec.allOnes 8 by decide, BitVec.and_allOnes] at ha
  refine ⟨ha, ?_⟩
  ext i hi
  have hw := congrArg (fun x => x.getLsbD i) h
  simp only [BitVec.getLsbD_and] at hw
  interval_cases i <;> simp [immField, byteField] at hw ⊢ <;> exact hw

/-- The opcode map is a function of the row: looking up a row's OPC finds the row. -/
@[simp] theorem Opcode.ofByte?_byte (o : Opcode) : Opcode.ofByte? o.byte = some o := by
  cases o <;> decide

theorem Opcode.mem_all (o : Opcode) : o ∈ Opcode.all := by cases o <;> decide

/-- An OPC value selects a row exactly when it is that row's. -/
theorem Opcode.ofByte?_eq_some {b : Byte} {o : Opcode} : Opcode.ofByte? b = some o ↔ b = o.byte := by
  constructor
  · intro h
    have := List.find?_some h
    simpa using (beq_iff_eq.mp this).symm
  · rintro rfl
    simp

theorem Opcode.ofByte?_eq_none {b : Byte} : Opcode.ofByte? b = none ↔ ∀ o : Opcode, b ≠ o.byte := by
  constructor
  · intro h o hb
    simp [hb] at h
  · intro h
    cases hb : Opcode.ofByte? b with
    | none => rfl
    | some o => exact absurd (Opcode.ofByte?_eq_some.mp hb) (h o)

/-- Everything decoding can answer (R85), in the order of its checks. -/
theorem decode_cases (w : Word) (vin : List Byte) :
    (decode w vin = .illegal .illOpcode ∧ ∀ o : Opcode, opcField w ≠ o.byte) ∨
    ∃ o : Opcode, opcField w = o.byte ∧
      ((decode w vin = .illegal .illReserved ∧ o.format.reservedBits w ≠ 0) ∨
       (decode w vin = .illegal .illVin ∧ o.format.reservedBits w = 0 ∧ vin.length ≠ o.vinLen) ∨
       (decode w vin = .instr (o.operands w vin) ∧ o.format.reservedBits w = 0 ∧
        vin.length = o.vinLen)) := by
  unfold decode
  cases h : Opcode.ofByte? (opcField w) with
  | none => exact .inl ⟨rfl, Opcode.ofByte?_eq_none.mp h⟩
  | some o =>
    refine .inr ⟨o, Opcode.ofByte?_eq_some.mp h, ?_⟩
    by_cases hr : o.format.reservedBits w ≠ 0
    · exact .inl ⟨if_pos hr, hr⟩
    · by_cases hv : vin.length ≠ o.vinLen
      · exact .inr (.inl ⟨(if_neg hr).trans (if_pos hv), not_not.mp hr, hv⟩)
      · exact .inr (.inr ⟨(if_neg hr).trans (if_neg hv), not_not.mp hr, not_not.mp hv⟩)

/-- The decoder on a word of a listed row: only the reserved bits and the VIN length are left to check. -/
theorem decode_of_opcode {w : Word} {vin : List Byte} {o : Opcode} (h : opcField w = o.byte) :
    decode w vin =
      if o.format.reservedBits w ≠ 0 then .illegal .illReserved
      else if vin.length ≠ o.vinLen then .illegal .illVin
      else .instr (o.operands w vin) := by
  simp [decode, h]

end Sys2Proof
end

