-- ==== Sys2Proof/Laws/State.lean ====
section
/-! SUPPORT. One lemma per field per update of the state, true by rfl, so that no proof unfolds a record
update. -/

namespace Sys2Proof.Machine

variable (s : State)

/-! ### setCrcAcc -/

@[simp] theorem State.setCrcAcc_syncCursor (v : Half) : (s.setCrcAcc v).syncCursor = s.syncCursor := rfl
@[simp] theorem State.setCrcAcc_rxbuf (v : Half) : (s.setCrcAcc v).rxbuf = s.rxbuf := rfl
@[simp] theorem State.setCrcAcc_crcAcc (v : Half) : (s.setCrcAcc v).crcAcc = v := rfl
@[simp] theorem State.setCrcAcc_timeoutCnt (v : Half) : (s.setCrcAcc v).timeoutCnt = s.timeoutCnt := rfl
@[simp] theorem State.setCrcAcc_timeoutThreshold (v : Half) : (s.setCrcAcc v).timeoutThreshold = s.timeoutThreshold := rfl
@[simp] theorem State.setCrcAcc_rcin (v : Half) : (s.setCrcAcc v).rcin = s.rcin := rfl
@[simp] theorem State.setCrcAcc_rccmd (v : Half) : (s.setCrcAcc v).rccmd = s.rccmd := rfl
@[simp] theorem State.setCrcAcc_cntDiscard (v : Half) : (s.setCrcAcc v).cntDiscard = s.cntDiscard := rfl
@[simp] theorem State.setCrcAcc_cntValid (v : Half) : (s.setCrcAcc v).cntValid = s.cntValid := rfl
@[simp] theorem State.setCrcAcc_cntCorrected (v : Half) : (s.setCrcAcc v).cntCorrected = s.cntCorrected := rfl
@[simp] theorem State.setCrcAcc_cntFailed (v : Half) : (s.setCrcAcc v).cntFailed = s.cntFailed := rfl
@[simp] theorem State.setCrcAcc_inputs (v : Half) : (s.setCrcAcc v).inputs = s.inputs := rfl
@[simp] theorem State.setCrcAcc_responses (v : Half) : (s.setCrcAcc v).responses = s.responses := rfl
@[simp] theorem State.setCrcAcc_freeCount (v : Half) : (s.setCrcAcc v).freeCount = s.freeCount := rfl

/-! ### setCursor -/

@[simp] theorem State.setCursor_syncCursor (n : Nat) : (s.setCursor n).syncCursor = Fin.ofNat 64 n := rfl
@[simp] theorem State.setCursor_rxbuf (n : Nat) : (s.setCursor n).rxbuf = s.rxbuf := rfl
@[simp] theorem State.setCursor_crcAcc (n : Nat) : (s.setCursor n).crcAcc = s.crcAcc := rfl
@[simp] theorem State.setCursor_timeoutCnt (n : Nat) : (s.setCursor n).timeoutCnt = s.timeoutCnt := rfl
@[simp] theorem State.setCursor_timeoutThreshold (n : Nat) : (s.setCursor n).timeoutThreshold = s.timeoutThreshold := rfl
@[simp] theorem State.setCursor_rcin (n : Nat) : (s.setCursor n).rcin = s.rcin := rfl
@[simp] theorem State.setCursor_rccmd (n : Nat) : (s.setCursor n).rccmd = s.rccmd := rfl
@[simp] theorem State.setCursor_cntDiscard (n : Nat) : (s.setCursor n).cntDiscard = s.cntDiscard := rfl
@[simp] theorem State.setCursor_cntValid (n : Nat) : (s.setCursor n).cntValid = s.cntValid := rfl
@[simp] theorem State.setCursor_cntCorrected (n : Nat) : (s.setCursor n).cntCorrected = s.cntCorrected := rfl
@[simp] theorem State.setCursor_cntFailed (n : Nat) : (s.setCursor n).cntFailed = s.cntFailed := rfl
@[simp] theorem State.setCursor_inputs (n : Nat) : (s.setCursor n).inputs = s.inputs := rfl
@[simp] theorem State.setCursor_responses (n : Nat) : (s.setCursor n).responses = s.responses := rfl
@[simp] theorem State.setCursor_freeCount (n : Nat) : (s.setCursor n).freeCount = s.freeCount := rfl

/-! ### storeRx -/

@[simp] theorem State.storeRx_syncCursor (b : Byte) : (s.storeRx b).syncCursor = s.syncCursor := rfl
@[simp] theorem State.storeRx_rxbuf (b : Byte) : (s.storeRx b).rxbuf = s.rxbuf.set s.syncCursor.val b s.syncCursor.isLt := rfl
@[simp] theorem State.storeRx_crcAcc (b : Byte) : (s.storeRx b).crcAcc = s.crcAcc := rfl
@[simp] theorem State.storeRx_timeoutCnt (b : Byte) : (s.storeRx b).timeoutCnt = s.timeoutCnt := rfl
@[simp] theorem State.storeRx_timeoutThreshold (b : Byte) : (s.storeRx b).timeoutThreshold = s.timeoutThreshold := rfl
@[simp] theorem State.storeRx_rcin (b : Byte) : (s.storeRx b).rcin = s.rcin := rfl
@[simp] theorem State.storeRx_rccmd (b : Byte) : (s.storeRx b).rccmd = s.rccmd := rfl
@[simp] theorem State.storeRx_cntDiscard (b : Byte) : (s.storeRx b).cntDiscard = s.cntDiscard := rfl
@[simp] theorem State.storeRx_cntValid (b : Byte) : (s.storeRx b).cntValid = s.cntValid := rfl
@[simp] theorem State.storeRx_cntCorrected (b : Byte) : (s.storeRx b).cntCorrected = s.cntCorrected := rfl
@[simp] theorem State.storeRx_cntFailed (b : Byte) : (s.storeRx b).cntFailed = s.cntFailed := rfl
@[simp] theorem State.storeRx_inputs (b : Byte) : (s.storeRx b).inputs = s.inputs := rfl
@[simp] theorem State.storeRx_responses (b : Byte) : (s.storeRx b).responses = s.responses := rfl
@[simp] theorem State.storeRx_freeCount (b : Byte) : (s.storeRx b).freeCount = s.freeCount := rfl

/-! ### setTimeoutCnt -/

@[simp] theorem State.setTimeoutCnt_syncCursor (v : Half) : (s.setTimeoutCnt v).syncCursor = s.syncCursor := rfl
@[simp] theorem State.setTimeoutCnt_rxbuf (v : Half) : (s.setTimeoutCnt v).rxbuf = s.rxbuf := rfl
@[simp] theorem State.setTimeoutCnt_crcAcc (v : Half) : (s.setTimeoutCnt v).crcAcc = s.crcAcc := rfl
@[simp] theorem State.setTimeoutCnt_timeoutCnt (v : Half) : (s.setTimeoutCnt v).timeoutCnt = v := rfl
@[simp] theorem State.setTimeoutCnt_timeoutThreshold (v : Half) : (s.setTimeoutCnt v).timeoutThreshold = s.timeoutThreshold := rfl
@[simp] theorem State.setTimeoutCnt_rcin (v : Half) : (s.setTimeoutCnt v).rcin = s.rcin := rfl
@[simp] theorem State.setTimeoutCnt_rccmd (v : Half) : (s.setTimeoutCnt v).rccmd = s.rccmd := rfl
@[simp] theorem State.setTimeoutCnt_cntDiscard (v : Half) : (s.setTimeoutCnt v).cntDiscard = s.cntDiscard := rfl
@[simp] theorem State.setTimeoutCnt_cntValid (v : Half) : (s.setTimeoutCnt v).cntValid = s.cntValid := rfl
@[simp] theorem State.setTimeoutCnt_cntCorrected (v : Half) : (s.setTimeoutCnt v).cntCorrected = s.cntCorrected := rfl
@[simp] theorem State.setTimeoutCnt_cntFailed (v : Half) : (s.setTimeoutCnt v).cntFailed = s.cntFailed := rfl
@[simp] theorem State.setTimeoutCnt_inputs (v : Half) : (s.setTimeoutCnt v).inputs = s.inputs := rfl
@[simp] theorem State.setTimeoutCnt_responses (v : Half) : (s.setTimeoutCnt v).responses = s.responses := rfl
@[simp] theorem State.setTimeoutCnt_freeCount (v : Half) : (s.setTimeoutCnt v).freeCount = s.freeCount := rfl

/-! ### setRcin -/

@[simp] theorem State.setRcin_syncCursor (ch : Fin 8) (raw : Half) : (s.setRcin ch raw).syncCursor = s.syncCursor := rfl
@[simp] theorem State.setRcin_rxbuf (ch : Fin 8) (raw : Half) : (s.setRcin ch raw).rxbuf = s.rxbuf := rfl
@[simp] theorem State.setRcin_crcAcc (ch : Fin 8) (raw : Half) : (s.setRcin ch raw).crcAcc = s.crcAcc := rfl
@[simp] theorem State.setRcin_timeoutCnt (ch : Fin 8) (raw : Half) : (s.setRcin ch raw).timeoutCnt = s.timeoutCnt := rfl
@[simp] theorem State.setRcin_timeoutThreshold (ch : Fin 8) (raw : Half) : (s.setRcin ch raw).timeoutThreshold = s.timeoutThreshold := rfl
@[simp] theorem State.setRcin_rcin (ch : Fin 8) (raw : Half) : (s.setRcin ch raw).rcin = s.rcin.set ch.val raw ch.isLt := rfl
@[simp] theorem State.setRcin_rccmd (ch : Fin 8) (raw : Half) : (s.setRcin ch raw).rccmd = s.rccmd := rfl
@[simp] theorem State.setRcin_cntDiscard (ch : Fin 8) (raw : Half) : (s.setRcin ch raw).cntDiscard = s.cntDiscard := rfl
@[simp] theorem State.setRcin_cntValid (ch : Fin 8) (raw : Half) : (s.setRcin ch raw).cntValid = s.cntValid := rfl
@[simp] theorem State.setRcin_cntCorrected (ch : Fin 8) (raw : Half) : (s.setRcin ch raw).cntCorrected = s.cntCorrected := rfl
@[simp] theorem State.setRcin_cntFailed (ch : Fin 8) (raw : Half) : (s.setRcin ch raw).cntFailed = s.cntFailed := rfl
@[simp] theorem State.setRcin_inputs (ch : Fin 8) (raw : Half) : (s.setRcin ch raw).inputs = s.inputs := rfl
@[simp] theorem State.setRcin_responses (ch : Fin 8) (raw : Half) : (s.setRcin ch raw).responses = s.responses := rfl
@[simp] theorem State.setRcin_freeCount (ch : Fin 8) (raw : Half) : (s.setRcin ch raw).freeCount = s.freeCount := rfl

/-! ### setRccmd -/

@[simp] theorem State.setRccmd_syncCursor (v : Vector Half 8) : (s.setRccmd v).syncCursor = s.syncCursor := rfl
@[simp] theorem State.setRccmd_rxbuf (v : Vector Half 8) : (s.setRccmd v).rxbuf = s.rxbuf := rfl
@[simp] theorem State.setRccmd_crcAcc (v : Vector Half 8) : (s.setRccmd v).crcAcc = s.crcAcc := rfl
@[simp] theorem State.setRccmd_timeoutCnt (v : Vector Half 8) : (s.setRccmd v).timeoutCnt = s.timeoutCnt := rfl
@[simp] theorem State.setRccmd_timeoutThreshold (v : Vector Half 8) : (s.setRccmd v).timeoutThreshold = s.timeoutThreshold := rfl
@[simp] theorem State.setRccmd_rcin (v : Vector Half 8) : (s.setRccmd v).rcin = s.rcin := rfl
@[simp] theorem State.setRccmd_rccmd (v : Vector Half 8) : (s.setRccmd v).rccmd = v := rfl
@[simp] theorem State.setRccmd_cntDiscard (v : Vector Half 8) : (s.setRccmd v).cntDiscard = s.cntDiscard := rfl
@[simp] theorem State.setRccmd_cntValid (v : Vector Half 8) : (s.setRccmd v).cntValid = s.cntValid := rfl
@[simp] theorem State.setRccmd_cntCorrected (v : Vector Half 8) : (s.setRccmd v).cntCorrected = s.cntCorrected := rfl
@[simp] theorem State.setRccmd_cntFailed (v : Vector Half 8) : (s.setRccmd v).cntFailed = s.cntFailed := rfl
@[simp] theorem State.setRccmd_inputs (v : Vector Half 8) : (s.setRccmd v).inputs = s.inputs := rfl
@[simp] theorem State.setRccmd_responses (v : Vector Half 8) : (s.setRccmd v).responses = s.responses := rfl
@[simp] theorem State.setRccmd_freeCount (v : Vector Half 8) : (s.setRccmd v).freeCount = s.freeCount := rfl

/-! ### countDiscard -/

@[simp] theorem State.countDiscard_syncCursor : s.countDiscard.syncCursor = s.syncCursor := rfl
@[simp] theorem State.countDiscard_rxbuf : s.countDiscard.rxbuf = s.rxbuf := rfl
@[simp] theorem State.countDiscard_crcAcc : s.countDiscard.crcAcc = s.crcAcc := rfl
@[simp] theorem State.countDiscard_timeoutCnt : s.countDiscard.timeoutCnt = s.timeoutCnt := rfl
@[simp] theorem State.countDiscard_timeoutThreshold : s.countDiscard.timeoutThreshold = s.timeoutThreshold := rfl
@[simp] theorem State.countDiscard_rcin : s.countDiscard.rcin = s.rcin := rfl
@[simp] theorem State.countDiscard_rccmd : s.countDiscard.rccmd = s.rccmd := rfl
@[simp] theorem State.countDiscard_cntDiscard : s.countDiscard.cntDiscard = s.cntDiscard + 1 := rfl
@[simp] theorem State.countDiscard_cntValid : s.countDiscard.cntValid = s.cntValid := rfl
@[simp] theorem State.countDiscard_cntCorrected : s.countDiscard.cntCorrected = s.cntCorrected := rfl
@[simp] theorem State.countDiscard_cntFailed : s.countDiscard.cntFailed = s.cntFailed := rfl
@[simp] theorem State.countDiscard_inputs : s.countDiscard.inputs = s.inputs := rfl
@[simp] theorem State.countDiscard_responses : s.countDiscard.responses = s.responses := rfl
@[simp] theorem State.countDiscard_freeCount : s.countDiscard.freeCount = s.freeCount := rfl

/-! ### countValid -/

@[simp] theorem State.countValid_syncCursor : s.countValid.syncCursor = s.syncCursor := rfl
@[simp] theorem State.countValid_rxbuf : s.countValid.rxbuf = s.rxbuf := rfl
@[simp] theorem State.countValid_crcAcc : s.countValid.crcAcc = s.crcAcc := rfl
@[simp] theorem State.countValid_timeoutCnt : s.countValid.timeoutCnt = s.timeoutCnt := rfl
@[simp] theorem State.countValid_timeoutThreshold : s.countValid.timeoutThreshold = s.timeoutThreshold := rfl
@[simp] theorem State.countValid_rcin : s.countValid.rcin = s.rcin := rfl
@[simp] theorem State.countValid_rccmd : s.countValid.rccmd = s.rccmd := rfl
@[simp] theorem State.countValid_cntDiscard : s.countValid.cntDiscard = s.cntDiscard := rfl
@[simp] theorem State.countValid_cntValid : s.countValid.cntValid = s.cntValid + 1 := rfl
@[simp] theorem State.countValid_cntCorrected : s.countValid.cntCorrected = s.cntCorrected := rfl
@[simp] theorem State.countValid_cntFailed : s.countValid.cntFailed = s.cntFailed := rfl
@[simp] theorem State.countValid_inputs : s.countValid.inputs = s.inputs := rfl
@[simp] theorem State.countValid_responses : s.countValid.responses = s.responses := rfl
@[simp] theorem State.countValid_freeCount : s.countValid.freeCount = s.freeCount := rfl

/-! ### countCorrected -/

@[simp] theorem State.countCorrected_syncCursor : s.countCorrected.syncCursor = s.syncCursor := rfl
@[simp] theorem State.countCorrected_rxbuf : s.countCorrected.rxbuf = s.rxbuf := rfl
@[simp] theorem State.countCorrected_crcAcc : s.countCorrected.crcAcc = s.crcAcc := rfl
@[simp] theorem State.countCorrected_timeoutCnt : s.countCorrected.timeoutCnt = s.timeoutCnt := rfl
@[simp] theorem State.countCorrected_timeoutThreshold : s.countCorrected.timeoutThreshold = s.timeoutThreshold := rfl
@[simp] theorem State.countCorrected_rcin : s.countCorrected.rcin = s.rcin := rfl
@[simp] theorem State.countCorrected_rccmd : s.countCorrected.rccmd = s.rccmd := rfl
@[simp] theorem State.countCorrected_cntDiscard : s.countCorrected.cntDiscard = s.cntDiscard := rfl
@[simp] theorem State.countCorrected_cntValid : s.countCorrected.cntValid = s.cntValid := rfl
@[simp] theorem State.countCorrected_cntCorrected : s.countCorrected.cntCorrected = s.cntCorrected + 1 := rfl
@[simp] theorem State.countCorrected_cntFailed : s.countCorrected.cntFailed = s.cntFailed := rfl
@[simp] theorem State.countCorrected_inputs : s.countCorrected.inputs = s.inputs := rfl
@[simp] theorem State.countCorrected_responses : s.countCorrected.responses = s.responses := rfl
@[simp] theorem State.countCorrected_freeCount : s.countCorrected.freeCount = s.freeCount := rfl

/-! ### countFailed -/

@[simp] theorem State.countFailed_syncCursor : s.countFailed.syncCursor = s.syncCursor := rfl
@[simp] theorem State.countFailed_rxbuf : s.countFailed.rxbuf = s.rxbuf := rfl
@[simp] theorem State.countFailed_crcAcc : s.countFailed.crcAcc = s.crcAcc := rfl
@[simp] theorem State.countFailed_timeoutCnt : s.countFailed.timeoutCnt = s.timeoutCnt := rfl
@[simp] theorem State.countFailed_timeoutThreshold : s.countFailed.timeoutThreshold = s.timeoutThreshold := rfl
@[simp] theorem State.countFailed_rcin : s.countFailed.rcin = s.rcin := rfl
@[simp] theorem State.countFailed_rccmd : s.countFailed.rccmd = s.rccmd := rfl
@[simp] theorem State.countFailed_cntDiscard : s.countFailed.cntDiscard = s.cntDiscard := rfl
@[simp] theorem State.countFailed_cntValid : s.countFailed.cntValid = s.cntValid := rfl
@[simp] theorem State.countFailed_cntCorrected : s.countFailed.cntCorrected = s.cntCorrected := rfl
@[simp] theorem State.countFailed_cntFailed : s.countFailed.cntFailed = s.cntFailed + 1 := rfl
@[simp] theorem State.countFailed_inputs : s.countFailed.inputs = s.inputs := rfl
@[simp] theorem State.countFailed_responses : s.countFailed.responses = s.responses := rfl
@[simp] theorem State.countFailed_freeCount : s.countFailed.freeCount = s.freeCount := rfl

/-! ### respond -/

@[simp] theorem State.respond_syncCursor (r : Response) : (s.respond r).syncCursor = s.syncCursor := rfl
@[simp] theorem State.respond_rxbuf (r : Response) : (s.respond r).rxbuf = s.rxbuf := rfl
@[simp] theorem State.respond_crcAcc (r : Response) : (s.respond r).crcAcc = s.crcAcc := rfl
@[simp] theorem State.respond_timeoutCnt (r : Response) : (s.respond r).timeoutCnt = s.timeoutCnt := rfl
@[simp] theorem State.respond_timeoutThreshold (r : Response) : (s.respond r).timeoutThreshold = s.timeoutThreshold := rfl
@[simp] theorem State.respond_rcin (r : Response) : (s.respond r).rcin = s.rcin := rfl
@[simp] theorem State.respond_rccmd (r : Response) : (s.respond r).rccmd = s.rccmd := rfl
@[simp] theorem State.respond_cntDiscard (r : Response) : (s.respond r).cntDiscard = s.cntDiscard := rfl
@[simp] theorem State.respond_cntValid (r : Response) : (s.respond r).cntValid = s.cntValid := rfl
@[simp] theorem State.respond_cntCorrected (r : Response) : (s.respond r).cntCorrected = s.cntCorrected := rfl
@[simp] theorem State.respond_cntFailed (r : Response) : (s.respond r).cntFailed = s.cntFailed := rfl
@[simp] theorem State.respond_inputs (r : Response) : (s.respond r).inputs = s.inputs := rfl
@[simp] theorem State.respond_responses (r : Response) : (s.respond r).responses = s.responses ++ [r] := rfl
@[simp] theorem State.respond_freeCount (r : Response) : (s.respond r).freeCount = s.freeCount := rfl

/-! ### presentNext -/

@[simp] theorem State.presentNext_syncCursor (x : HostInput) : (s.presentNext x).syncCursor = s.syncCursor := rfl
@[simp] theorem State.presentNext_rxbuf (x : HostInput) : (s.presentNext x).rxbuf = s.rxbuf := rfl
@[simp] theorem State.presentNext_crcAcc (x : HostInput) : (s.presentNext x).crcAcc = s.crcAcc := rfl
@[simp] theorem State.presentNext_timeoutCnt (x : HostInput) : (s.presentNext x).timeoutCnt = s.timeoutCnt := rfl
@[simp] theorem State.presentNext_timeoutThreshold (x : HostInput) : (s.presentNext x).timeoutThreshold = s.timeoutThreshold := rfl
@[simp] theorem State.presentNext_rcin (x : HostInput) : (s.presentNext x).rcin = s.rcin := rfl
@[simp] theorem State.presentNext_rccmd (x : HostInput) : (s.presentNext x).rccmd = s.rccmd := rfl
@[simp] theorem State.presentNext_cntDiscard (x : HostInput) : (s.presentNext x).cntDiscard = s.cntDiscard := rfl
@[simp] theorem State.presentNext_cntValid (x : HostInput) : (s.presentNext x).cntValid = s.cntValid := rfl
@[simp] theorem State.presentNext_cntCorrected (x : HostInput) : (s.presentNext x).cntCorrected = s.cntCorrected := rfl
@[simp] theorem State.presentNext_cntFailed (x : HostInput) : (s.presentNext x).cntFailed = s.cntFailed := rfl
@[simp] theorem State.presentNext_inputs (x : HostInput) : (s.presentNext x).inputs = x :: s.inputs := rfl
@[simp] theorem State.presentNext_responses (x : HostInput) : (s.presentNext x).responses = s.responses := rfl
@[simp] theorem State.presentNext_freeCount (x : HostInput) : (s.presentNext x).freeCount = s.freeCount := rfl

/-! ### present -/

@[simp] theorem State.present_syncCursor (xs : List HostInput) : (s.present xs).syncCursor = s.syncCursor := rfl
@[simp] theorem State.present_rxbuf (xs : List HostInput) : (s.present xs).rxbuf = s.rxbuf := rfl
@[simp] theorem State.present_crcAcc (xs : List HostInput) : (s.present xs).crcAcc = s.crcAcc := rfl
@[simp] theorem State.present_timeoutCnt (xs : List HostInput) : (s.present xs).timeoutCnt = s.timeoutCnt := rfl
@[simp] theorem State.present_timeoutThreshold (xs : List HostInput) : (s.present xs).timeoutThreshold = s.timeoutThreshold := rfl
@[simp] theorem State.present_rcin (xs : List HostInput) : (s.present xs).rcin = s.rcin := rfl
@[simp] theorem State.present_rccmd (xs : List HostInput) : (s.present xs).rccmd = s.rccmd := rfl
@[simp] theorem State.present_cntDiscard (xs : List HostInput) : (s.present xs).cntDiscard = s.cntDiscard := rfl
@[simp] theorem State.present_cntValid (xs : List HostInput) : (s.present xs).cntValid = s.cntValid := rfl
@[simp] theorem State.present_cntCorrected (xs : List HostInput) : (s.present xs).cntCorrected = s.cntCorrected := rfl
@[simp] theorem State.present_cntFailed (xs : List HostInput) : (s.present xs).cntFailed = s.cntFailed := rfl
@[simp] theorem State.present_inputs (xs : List HostInput) : (s.present xs).inputs = s.inputs ++ xs := rfl
@[simp] theorem State.present_responses (xs : List HostInput) : (s.present xs).responses = s.responses := rfl
@[simp] theorem State.present_freeCount (xs : List HostInput) : (s.present xs).freeCount = s.freeCount := rfl

/-! ### resetWith and the reset input -/

@[simp] theorem State.resetWith_syncCursor (τ : Half) : (State.resetWith τ).syncCursor = 0 := rfl
@[simp] theorem State.resetWith_rxbuf (τ : Half) : (State.resetWith τ).rxbuf = Vector.replicate 64 0 := rfl
@[simp] theorem State.resetWith_crcAcc (τ : Half) : (State.resetWith τ).crcAcc = 0xFFFF := rfl
@[simp] theorem State.resetWith_timeoutCnt (τ : Half) : (State.resetWith τ).timeoutCnt = 0 := rfl
@[simp] theorem State.resetWith_timeoutThreshold (τ : Half) : (State.resetWith τ).timeoutThreshold = τ := rfl
@[simp] theorem State.resetWith_rcin (τ : Half) : (State.resetWith τ).rcin = Vector.replicate 8 0 := rfl
@[simp] theorem State.resetWith_rccmd (τ : Half) : (State.resetWith τ).rccmd = Vector.replicate 8 0 := rfl
@[simp] theorem State.resetWith_cntDiscard (τ : Half) : (State.resetWith τ).cntDiscard = 0 := rfl
@[simp] theorem State.resetWith_cntValid (τ : Half) : (State.resetWith τ).cntValid = 0 := rfl
@[simp] theorem State.resetWith_cntCorrected (τ : Half) : (State.resetWith τ).cntCorrected = 0 := rfl
@[simp] theorem State.resetWith_cntFailed (τ : Half) : (State.resetWith τ).cntFailed = 0 := rfl
@[simp] theorem State.resetWith_inputs (τ : Half) : (State.resetWith τ).inputs = [] := rfl
@[simp] theorem State.resetWith_responses (τ : Half) : (State.resetWith τ).responses = [] := rfl
@[simp] theorem State.resetWith_freeCount (τ : Half) : (State.resetWith τ).freeCount = 0 := rfl

@[simp] theorem applyReset_syncCursor : (applyReset s).syncCursor = 0 := rfl
@[simp] theorem applyReset_rxbuf : (applyReset s).rxbuf = freeRxbuf s.freeCount := rfl
@[simp] theorem applyReset_crcAcc : (applyReset s).crcAcc = 0xFFFF := rfl
@[simp] theorem applyReset_timeoutCnt : (applyReset s).timeoutCnt = 0 := rfl
@[simp] theorem applyReset_timeoutThreshold : (applyReset s).timeoutThreshold = s.timeoutThreshold := rfl
@[simp] theorem applyReset_rcin : (applyReset s).rcin = Vector.replicate 8 0 := rfl
@[simp] theorem applyReset_rccmd : (applyReset s).rccmd = Vector.replicate 8 0 := rfl
@[simp] theorem applyReset_cntDiscard : (applyReset s).cntDiscard = 0 := rfl
@[simp] theorem applyReset_cntValid : (applyReset s).cntValid = 0 := rfl
@[simp] theorem applyReset_cntCorrected : (applyReset s).cntCorrected = 0 := rfl
@[simp] theorem applyReset_cntFailed : (applyReset s).cntFailed = 0 := rfl
@[simp] theorem applyReset_inputs : (applyReset s).inputs = s.inputs := rfl
@[simp] theorem applyReset_responses : (applyReset s).responses = s.responses := rfl
@[simp] theorem applyReset_freeCount : (applyReset s).freeCount = s.freeCount + 64 := rfl

/-! ### Responding -/

/-- `respondOk` in terms of `respond`, the spelling every lemma above uses. -/
@[simp] theorem respondOk_eq (v : Half) (o : List Byte) : respondOk v o s = s.respond ⟨.ok, v, o⟩ := rfl

/-- Raising IllegalCommand in terms of `respond`. -/
@[simp] theorem raiseIllegal_eq (c : IllegalCause) :
    raiseIllegal c s = s.respond ⟨.illegal, c.code, []⟩ := rfl

end Sys2Proof.Machine
end

