-- ==== Sys2Proof/Laws/Ops.lean ====
section
/-! SUPPORT. What each shared operation over the state can do, said once. -/

namespace Sys2Proof.Machine

/-- The VIN length check passes. -/
theorem withVin_of_length {n : Nat} {v : List Byte} (h : v.length = n) (f : State → State) (s : State) :
    withVin n v f s = f s := by simp [withVin, h]

/-- The VIN length check fails: cause 3, and nothing else. -/
theorem withVin_of_ne {n : Nat} {v : List Byte} (h : v.length ≠ n) (f : State → State) (s : State) :
    withVin n v f s = s.respond ⟨.illegal, 3, []⟩ := by simp [withVin, h, IllegalCause.code]

/-- Taking an input: nothing there, or the oldest one and the rest. -/
theorem fetch_nil {s : State} (h : s.inputs = []) : fetch s = none := by simp [fetch, h]

theorem fetch_cons {s : State} {x : HostInput} {rest : List HostInput} (h : s.inputs = x :: rest) :
    fetch s = some (x, { s with inputs := rest }) := by simp [fetch, h]

/-- The cursor after `setCursor`, for a number the cursor can hold. -/
theorem setCursor_val {n : Nat} (h : n < 64) (s : State) : (s.setCursor n).syncCursor.val = n := by
  simp [Nat.mod_eq_of_lt h]

/-- One byte of RXBUF after a store at the cursor: the byte stored there, every other as before. -/
theorem storeRx_getElem (b : Byte) (s : State) (i : Fin 64) :
    (s.storeRx b).rxbuf[i] = if i = s.syncCursor then b else s.rxbuf[i] := by
  simp only [State.storeRx_rxbuf, Fin.getElem_fin, Vector.getElem_set, Fin.ext_iff]
  by_cases h : s.syncCursor.val = i.val
  · simp [h]
  · simp [h, Ne.symm h]

/-- RXBUF as a list after a store at the cursor. -/
theorem storeRx_toList (b : Byte) (s : State) :
    (s.storeRx b).rxbuf.toList = s.rxbuf.toList.set s.syncCursor.val b := by
  cases hb : s.rxbuf with
  | mk a ha => simp [State.storeRx, hb, Vector.set, Vector.toList]

/-- A register number is one of the map's or reserved (R32). -/
theorem regOfNumber_none {reg : Byte} :
    regOfNumber reg = none ↔
      (0x08 ≤ reg.toNat ∧ reg.toNat ≤ 0x0F) ∨ (0x20 ≤ reg.toNat ∧ reg.toNat ≤ 0xFF) := by
  revert reg
  decide +revert

end Sys2Proof.Machine
end

