-- ==== Sys2Proof/Laws/Fec.lean ====
section
/-! SUPPORT. The parity groups, and the linearity of the group XOR. -/

namespace Sys2Proof.Machine

/-- Membership in a parity group (R12). -/
theorem mem_group {k i : Nat} : i ∈ group k ↔ i < 50 ∧ i / 8 = k := by
  simp [group, dataLen]

/-- The groups are ascending (R173 tries positions in this order). -/
theorem group_pairwise_lt (k : Nat) : (group k).Pairwise (· < ·) :=
  List.pairwise_lt_range.filter _

@[simp] theorem parity_length (d : List Byte) : (parity d).length = 8 := by simp [parity, parityLen]

@[simp] theorem syndrome_length (p : List Byte) : (syndrome p).length = 8 := by
  simp [syndrome, parityLen]

theorem byteAt_parity {k : Nat} (h : k < 8) (d : List Byte) : byteAt (parity d) k = xorOver (group k) d := by
  simp [byteAt, parity, parityLen, h]

theorem byteAt_syndrome {k : Nat} (h : k < 8) (p : List Byte) : byteAt (syndrome p) k = discrepancy p k := by
  simp [byteAt, syndrome, parityLen, h]

theorem byteAt_zipWith_xor (a b : List Byte) (h : a.length = b.length) (i : Nat) :
    byteAt (List.zipWith (fun x y => x ^^^ y) a b) i = byteAt a i ^^^ byteAt b i := by
  by_cases hi : i < a.length
  · simp [byteAt, List.getD_eq_getElem?_getD, hi, h ▸ hi]
  · simp [byteAt, List.getD_eq_getElem?_getD, Nat.not_lt.mp hi, h ▸ Nat.not_lt.mp hi]

/-- The group XOR from any start. -/
theorem foldl_xor_start (idx : List Nat) (a : List Byte) (x : Byte) :
    idx.foldl (fun x i => x ^^^ byteAt a i) x = x ^^^ idx.foldl (fun x i => x ^^^ byteAt a i) 0 := by
  induction idx generalizing x with
  | nil => simp
  | cons i idx ih =>
    rw [List.foldl_cons, List.foldl_cons, ih, ih (0 ^^^ byteAt a i)]
    simp [BitVec.xor_assoc]

@[simp] theorem xorOver_nil (a : List Byte) : xorOver [] a = 0 := rfl

theorem xorOver_cons (i : Nat) (idx : List Nat) (a : List Byte) :
    xorOver (i :: idx) a = byteAt a i ^^^ xorOver idx a := by
  rw [xorOver, List.foldl_cons, foldl_xor_start]
  simp [xorOver]

/-- The group XOR is linear over XOR of byte sequences of the same length. -/
theorem xorOver_xor (idx : List Nat) (a b : List Byte) (h : a.length = b.length) :
    xorOver idx (List.zipWith (fun x y => x ^^^ y) a b) = xorOver idx a ^^^ xorOver idx b := by
  induction idx with
  | nil => simp
  | cons i idx ih =>
    simp only [xorOver_cons, ih, byteAt_zipWith_xor a b h]
    ac_rfl

/-- A consistent payload has no discrepancy. -/
theorem parityConsistent_iff {p : List Byte} :
    parityConsistent p = true ↔ ∀ k, k < 8 → discrepancy p k = 0 := by
  simp [parityConsistent, parityLen]

end Sys2Proof.Machine
end

