-- ==== Sys2Proof/Laws/Validate.lean ====
section
/-! SUPPORT. The trials as a set, and everything `validate` can answer, said once. -/

namespace Sys2Proof.Machine

/-- A trial changes one position of a flagged group by the group's discrepancy (R173). -/
theorem mem_trials {p q : List Byte} :
    q ∈ trials p ↔ ∃ i, i < 50 ∧ discrepancy p (i / 8) ≠ 0 ∧ q = trialAt p (discrepancy p (i / 8)) i := by
  simp only [trials, List.mem_flatMap, List.mem_range, groupTrials, parityLen]
  constructor
  · rintro ⟨k, hk, hq⟩
    split at hq
    · simp at hq
    · obtain ⟨i, hi, rfl⟩ := List.mem_map.mp hq
      obtain ⟨h50, rfl⟩ := mem_group.mp hi
      exact ⟨i, h50, ‹_›, rfl⟩
  · rintro ⟨i, hi, hd, rfl⟩
    refine ⟨i / 8, by omega, ?_⟩
    rw [if_neg hd]
    exact List.mem_map.mpr ⟨i, mem_group.mpr ⟨hi, rfl⟩, rfl⟩

@[simp] theorem trialAt_length (p : List Byte) (e : Byte) (i : Nat) :
    (trialAt p e i).length = p.length := by simp [trialAt]

theorem length_of_mem_trials {p q : List Byte} (h : q ∈ trials p) : q.length = p.length := by
  obtain ⟨i, -, -, rfl⟩ := mem_trials.mp h
  simp

/-- Everything `validate` can answer (R171 to R174). -/
theorem validate_cases (f : List Byte) :
    (crc16 (payloadSpan f) = transmittedCrc f ∧ validate f = (.valid, f)) ∨
    (crc16 (payloadSpan f) ≠ transmittedCrc f ∧ ∃ q,
      (trials (payloadSpan f)).find? (fun q => crc16 q == transmittedCrc f) = some q ∧
      q ∈ trials (payloadSpan f) ∧ crc16 q = transmittedCrc f ∧ validate f = (.corrected, withPayload f q)) ∨
    (crc16 (payloadSpan f) ≠ transmittedCrc f ∧
      (∀ q ∈ trials (payloadSpan f), crc16 q ≠ transmittedCrc f) ∧ validate f = (.failed, f)) := by
  by_cases h : crc16 (payloadSpan f) = transmittedCrc f
  · exact .inl ⟨h, by simp [validate, h]⟩
  · cases hf : (trials (payloadSpan f)).find? fun q => crc16 q == transmittedCrc f with
    | some q =>
      exact .inr (.inl ⟨h, q, rfl, List.mem_of_find?_eq_some hf, by simpa using List.find?_some hf,
        by simp [validate, h, hf]⟩)
    | none =>
      refine .inr (.inr ⟨h, fun q hq => ?_, by simp [validate, h, hf]⟩)
      simpa using List.find?_eq_none.mp hf q hq

@[simp] theorem payloadSpan_length {f : List Byte} (h : f.length = 64) : (payloadSpan f).length = 58 := by
  simp [payloadSpan, payloadLen, h]

theorem withPayload_length {f q : List Byte} (hf : f.length = 64) (hq : q.length = 58) :
    (withPayload f q).length = 64 := by simp [withPayload, hf, hq]

theorem payloadSpan_withPayload {f q : List Byte} (hf : f.length = 64) (hq : q.length = 58) :
    payloadSpan (withPayload f q) = q := by
  simp [payloadSpan, withPayload, payloadLen, hf, hq]

theorem transmittedCrc_withPayload {f q : List Byte} (hf : f.length = 64) (hq : q.length = 58) :
    transmittedCrc (withPayload f q) = transmittedCrc f := by
  simp [transmittedCrc, field16, byteAt, withPayload, hf, hq]

/-- The output frame has the length of the input frame. -/
theorem validate_length {f : List Byte} (h : f.length = 64) : (validate f).2.length = 64 := by
  obtain ⟨-, hv⟩ | ⟨-, q, -, hq, -, hv⟩ | ⟨-, -, hv⟩ := validate_cases f
  · simpa [hv] using h
  · rw [hv]
    exact withPayload_length h ((length_of_mem_trials hq).trans (payloadSpan_length h))
  · simpa [hv] using h

end Sys2Proof.Machine
end

