-- ==== Sys2Proof/Laws/Sync.lean ====
section
/-! SUPPORT. What ARB.APPLY writes, field by field, and the four things one byte can do to the
synchronizer. -/

namespace Sys2Proof.Machine

variable (g : List Byte) (s : State)

@[simp] theorem arbApply_syncCursor : (arbApply g s).syncCursor = s.syncCursor := rfl
@[simp] theorem arbApply_rxbuf : (arbApply g s).rxbuf = s.rxbuf := rfl
@[simp] theorem arbApply_crcAcc : (arbApply g s).crcAcc = s.crcAcc := rfl
@[simp] theorem arbApply_timeoutCnt : (arbApply g s).timeoutCnt = 0 := rfl
@[simp] theorem arbApply_timeoutThreshold : (arbApply g s).timeoutThreshold = s.timeoutThreshold := rfl
@[simp] theorem arbApply_rcin : (arbApply g s).rcin = s.rcin := rfl
@[simp] theorem arbApply_cntDiscard : (arbApply g s).cntDiscard = s.cntDiscard := rfl
@[simp] theorem arbApply_cntValid : (arbApply g s).cntValid = s.cntValid := rfl
@[simp] theorem arbApply_cntCorrected : (arbApply g s).cntCorrected = s.cntCorrected := rfl
@[simp] theorem arbApply_cntFailed : (arbApply g s).cntFailed = s.cntFailed := rfl
@[simp] theorem arbApply_inputs : (arbApply g s).inputs = s.inputs := rfl
@[simp] theorem arbApply_responses : (arbApply g s).responses = s.responses := rfl
@[simp] theorem arbApply_freeCount : (arbApply g s).freeCount = s.freeCount := rfl

/-- One override slot after ARB.APPLY (R190). -/
theorem arbApply_rccmd (ch : Fin 8) :
    (arbApply g s).rccmd[ch] = overrideOf s.rccmd[ch] (commandValue g ch.val) := by
  simp [arbApply]

/-- An override slot never comes to hold the sentinel (R28). -/
theorem overrideOf_ne_sentinel {old : Half} (h : old ≠ sentinel) (v : Half) :
    overrideOf old v ≠ sentinel := by
  unfold overrideOf
  split <;> assumption

/-- The four things one byte can do (R151, R152). -/
theorem rxPush_cases (b : Byte) (s : State) :
    (s.syncCursor.val < 4 ∧ b = byteAt magic s.syncCursor.val ∧ rxPush b s = acceptByte b s) ∨
    (s.syncCursor.val < 4 ∧ b ≠ byteAt magic s.syncCursor.val ∧ rxPush b s = discardByte s) ∨
    (4 ≤ s.syncCursor.val ∧ s.syncCursor.val + 1 < 64 ∧ rxPush b s = acceptByte b s) ∨
    (s.syncCursor.val = 63 ∧ rxPush b s = completeFrame b s) := by
  by_cases h4 : s.syncCursor.val < 4
  · by_cases hb : b = byteAt magic s.syncCursor.val
    · exact .inl ⟨h4, hb, by rw [rxPush, if_pos h4, if_pos hb]⟩
    · exact .inr (.inl ⟨h4, hb, by rw [rxPush, if_pos h4, if_neg hb]⟩)
  · by_cases h64 : s.syncCursor.val + 1 < 64
    · exact .inr (.inr (.inl ⟨by omega, h64, by rw [rxPush, if_neg h4, if_pos h64]⟩))
    · exact .inr (.inr (.inr ⟨by omega, by rw [rxPush, if_neg h4, if_neg h64]⟩))

/-- The three ends of a completed frame (R152, R153). -/
theorem completeFrame_cases (b : Byte) (s : State) :
    let f := s.rxbuf.toList.set s.syncCursor.val b
    let u := (s.storeRx b).setCursor 0
    (∃ g, validate f = (.valid, g) ∧
      completeFrame b s = (arbApply g u.countValid).respond ⟨.ok, 2, g⟩) ∨
    (∃ g, validate f = (.corrected, g) ∧
      completeFrame b s = (arbApply g u.countCorrected).respond ⟨.ok, 3, g⟩) ∨
    (∃ g, validate f = (.failed, g) ∧ completeFrame b s = u.countFailed.respond ⟨.ok, 4, []⟩) := by
  simp only [completeFrame, storeRx_toList]
  cases hv : validate (s.rxbuf.toList.set s.syncCursor.val b) with
  | mk v g =>
    cases v
    · exact .inl ⟨g, rfl, rfl⟩
    · exact .inr (.inl ⟨g, rfl, rfl⟩)
    · exact .inr (.inr ⟨g, rfl, rfl⟩)

end Sys2Proof.Machine
end

