-- ==== Sys2Proof/Laws/Exec.lean ====
section
/-! SUPPORT. One spec lemma per meaning, and the inversion of a step: what it can be, said once, with what
every operation has in common. -/

namespace Sys2Proof.Machine

/-! ## One lemma per meaning -/

theorem exec_nop (s : State) : exec .nop s = .next (s.respond ⟨.ok, 0, []⟩) := rfl

theorem exec_crcInit (s : State) :
    exec .crcInit s = .next ((s.setCrcAcc crcInit).respond ⟨.ok, crcInit, []⟩) := rfl

theorem exec_crcByte (b : Byte) (s : State) :
    exec (.crcByte b) s =
      .next ((s.setCrcAcc (crcStep s.crcAcc b)).respond ⟨.ok, crcStep s.crcAcc b, []⟩) := rfl

theorem exec_crcRead (s : State) : exec .crcRead s = .next (s.respond ⟨.ok, s.crcAcc, []⟩) := rfl

theorem exec_rxPush (b : Byte) (s : State) : exec (.rxPush b) s = .next (rxPush b s) := rfl

/-- A vector operation answers one response and writes nothing, whatever its operand's length. -/
theorem exec_vector {i : Instr}
    (hi : i.opcode ∈ [Opcode.fecEncode, .fecSyndrome, .txAssemble, .rxValidate]) :
    ∃ r : Response, (r.status = .illegal → r.vout = [] ∧ r.value = 3) ∧
      ∀ u : State, exec i u = .next (u.respond r) := by
  cases i <;> simp [Instr.opcode] at hi
  case fecEncode d =>
    by_cases h : d.length = 50
    · exact ⟨⟨.ok, 0, parity d⟩, by simp, fun u => by simp [exec, execFecEncode, withVin, h]⟩
    · exact ⟨⟨.illegal, 3, []⟩, by simp, fun u => by simp [exec, execFecEncode, withVin, h, IllegalCause.code]⟩
  case fecSyndrome d =>
    by_cases h : d.length = 58
    · exact ⟨⟨.ok, zext16 (flagMask (syndrome d)), syndrome d⟩, by simp,
        fun u => by simp [exec, execFecSyndrome, withVin, h]⟩
    · exact ⟨⟨.illegal, 3, []⟩, by simp, fun u => by simp [exec, execFecSyndrome, withVin, h, IllegalCause.code]⟩
  case txAssemble d =>
    by_cases h : d.length = 50
    · exact ⟨⟨.ok, crc16 (txPayload d), txFrame d⟩, by simp,
        fun u => by simp [exec, execTxAssemble, withVin, h]⟩
    · exact ⟨⟨.illegal, 3, []⟩, by simp, fun u => by simp [exec, execTxAssemble, withVin, h, IllegalCause.code]⟩
  case rxValidate d =>
    by_cases h : d.length = 64
    · exact ⟨⟨.ok, (validate d).1.code, (validate d).2⟩, by simp,
        fun u => by simp [exec, execRxValidate, withVin, h]⟩
    · exact ⟨⟨.illegal, 3, []⟩, by simp, fun u => by simp [exec, execRxValidate, withVin, h, IllegalCause.code]⟩

/-- ARB.TICK clears or counts (R192). -/
theorem exec_arbTick (s : State) :
    (s.timeoutThreshold ≤ s.timeoutCnt + 1 ∧
      exec .arbTick s = .next (((s.setTimeoutCnt 0).setRccmd noOverrides).respond ⟨.ok, 1, []⟩)) ∨
    (¬s.timeoutThreshold ≤ s.timeoutCnt + 1 ∧
      exec .arbTick s = .next ((s.setTimeoutCnt (s.timeoutCnt + 1)).respond ⟨.ok, 0, []⟩)) := by
  by_cases h : s.timeoutThreshold ≤ s.timeoutCnt + 1
  · exact .inl ⟨h, congrArg Host.Outcome.next (if_pos h)⟩
  · exact .inr ⟨h, congrArg Host.Outcome.next (if_neg h)⟩

/-- CH.SAMPLE in range and out of range (R194, R195). -/
theorem exec_chSample (ch : Byte) (raw : Half) (s : State) :
    (∃ h : ch.toNat < 8, exec (.chSample ch raw) s =
      .next ((s.setRcin ⟨ch.toNat, h⟩ raw).respond ⟨.ok, effectiveValue s.rccmd[ch.toNat] raw, []⟩)) ∨
    (8 ≤ ch.toNat ∧ exec (.chSample ch raw) s = .next (s.respond ⟨.ok, raw, []⟩)) := by
  by_cases h : ch.toNat < 8
  · exact .inl ⟨h, by simp [exec, execChSample, h]⟩
  · exact .inr ⟨by omega, by simp [exec, execChSample, h]⟩

/-- REG.READ of a mapped and of a reserved number (R211). -/
theorem exec_regRead (reg : Byte) (s : State) :
    (∃ r, regOfNumber reg = some r ∧
      exec (.regRead reg) s = .next (s.respond ⟨.ok, readReg r s, []⟩)) ∨
    (regOfNumber reg = none ∧ exec (.regRead reg) s = .next (s.respond ⟨.illegal, 4, []⟩)) := by
  cases h : regOfNumber reg with
  | some r => exact .inl ⟨r, rfl, by simp [exec, execRegRead, h]⟩
  | none => exact .inr ⟨rfl, by simp [exec, execRegRead, h, IllegalCause.code]⟩

/-! ## What every operation has in common -/

/-- RX.PUSH answers once and leaves what it has no business with. -/
theorem rxPush_common (b : Byte) (s : State) :
    (∃ r, r.status = .ok ∧ (rxPush b s).responses = s.responses ++ [r]) ∧
      (rxPush b s).inputs = s.inputs ∧ (rxPush b s).timeoutThreshold = s.timeoutThreshold ∧
      (rxPush b s).freeCount = s.freeCount ∧ (rxPush b s).crcAcc = s.crcAcc ∧
      (rxPush b s).rcin = s.rcin := by
  obtain ⟨-, -, h⟩ | ⟨-, -, h⟩ | ⟨-, -, h⟩ | ⟨-, h⟩ := rxPush_cases b s
  · rw [h]; exact ⟨⟨_, rfl, rfl⟩, rfl, rfl, rfl, rfl, rfl⟩
  · rw [h]; exact ⟨⟨_, rfl, rfl⟩, rfl, rfl, rfl, rfl, rfl⟩
  · rw [h]; exact ⟨⟨_, rfl, rfl⟩, rfl, rfl, rfl, rfl, rfl⟩
  · rw [h]
    obtain ⟨g, -, h⟩ | ⟨g, -, h⟩ | ⟨g, -, h⟩ := completeFrame_cases b s <;> rw [h] <;>
      exact ⟨⟨_, rfl, rfl⟩, rfl, rfl, rfl, rfl, rfl⟩

/-- Every operation answers a next state with exactly one more response; the parameter, the pending inputs
and the free values stay. -/
theorem exec_answers (i : Instr) (s : State) : ∃ t r, exec i s = .next t ∧
    t.responses = s.responses ++ [r] ∧ t.inputs = s.inputs ∧
    t.timeoutThreshold = s.timeoutThreshold ∧ t.freeCount = s.freeCount := by
  cases i
  case rxPush b =>
    obtain ⟨⟨r, -, hr⟩, h1, h2, h3, -⟩ := rxPush_common b s
    exact ⟨_, r, rfl, hr, h1, h2, h3⟩
  case arbTick => obtain ⟨-, h⟩ | ⟨-, h⟩ := exec_arbTick s <;> exact ⟨_, _, h, rfl, rfl, rfl, rfl⟩
  case chSample ch raw =>
    obtain ⟨_, h⟩ | ⟨-, h⟩ := exec_chSample ch raw s <;> exact ⟨_, _, h, rfl, rfl, rfl, rfl⟩
  case regRead reg =>
    obtain ⟨r, -, h⟩ | ⟨-, h⟩ := exec_regRead reg s <;> exact ⟨_, _, h, rfl, rfl, rfl, rfl⟩
  case fecEncode d =>
    obtain ⟨r, -, h⟩ := exec_vector (i := .fecEncode d) (by simp [Instr.opcode])
    exact ⟨_, r, h s, rfl, rfl, rfl, rfl⟩
  case fecSyndrome d =>
    obtain ⟨r, -, h⟩ := exec_vector (i := .fecSyndrome d) (by simp [Instr.opcode])
    exact ⟨_, r, h s, rfl, rfl, rfl, rfl⟩
  case txAssemble d =>
    obtain ⟨r, -, h⟩ := exec_vector (i := .txAssemble d) (by simp [Instr.opcode])
    exact ⟨_, r, h s, rfl, rfl, rfl, rfl⟩
  case rxValidate d =>
    obtain ⟨r, -, h⟩ := exec_vector (i := .rxValidate d) (by simp [Instr.opcode])
    exact ⟨_, r, h s, rfl, rfl, rfl, rfl⟩
  all_goals exact ⟨_, _, rfl, rfl, rfl, rfl, rfl⟩

/-! ## The pending inputs play no part in an operation -/

theorem settleFrame_withInputs (v : Verdict × List Byte) (s : State) (xs : List HostInput) :
    settleFrame v { s with inputs := xs } = { settleFrame v s with inputs := xs } := by
  obtain ⟨v, g⟩ := v
  cases v <;> rfl

theorem rxPush_withInputs (b : Byte) (s : State) (xs : List HostInput) :
    rxPush b { s with inputs := xs } = { rxPush b s with inputs := xs } := by
  unfold rxPush
  split
  · split <;> rfl
  · split
    · rfl
    · exact settleFrame_withInputs _ ((s.storeRx b).setCursor 0) xs

/-- Replacing what the host has presented does not change what an operation does. -/
theorem exec_withInputs {i : Instr} {s t : State} (h : exec i s = .next t) (xs : List HostInput) :
    exec i { s with inputs := xs } = .next { t with inputs := xs } := by
  cases i
  case rxPush b =>
    rw [exec_rxPush] at h ⊢
    cases h
    rw [rxPush_withInputs]
  case arbTick =>
    obtain ⟨hc, e⟩ | ⟨hc, e⟩ := exec_arbTick s <;> rw [e] at h <;> cases h
    · exact congrArg Host.Outcome.next (if_pos hc)
    · exact congrArg Host.Outcome.next (if_neg hc)
  case chSample ch raw =>
    obtain ⟨hc, e⟩ | ⟨hc, e⟩ := exec_chSample ch raw s <;> rw [e] at h <;> cases h
    · exact congrArg Host.Outcome.next (dif_pos hc)
    · exact congrArg Host.Outcome.next (dif_neg (Nat.not_lt.mpr hc))
  case regRead reg =>
    obtain ⟨r, hr, e⟩ | ⟨hr, e⟩ := exec_regRead reg s <;> rw [e] at h <;> cases h <;>
      simp only [exec, execRegRead, hr]
    · cases r <;> rfl
    · rfl
  case fecEncode d =>
    obtain ⟨r, -, e⟩ := exec_vector (i := .fecEncode d) (by simp [Instr.opcode])
    rw [e] at h ⊢; cases h; rfl
  case fecSyndrome d =>
    obtain ⟨r, -, e⟩ := exec_vector (i := .fecSyndrome d) (by simp [Instr.opcode])
    rw [e] at h ⊢; cases h; rfl
  case txAssemble d =>
    obtain ⟨r, -, e⟩ := exec_vector (i := .txAssemble d) (by simp [Instr.opcode])
    rw [e] at h ⊢; cases h; rfl
  case rxValidate d =>
    obtain ⟨r, -, e⟩ := exec_vector (i := .rxValidate d) (by simp [Instr.opcode])
    rw [e] at h ⊢; cases h; rfl
  all_goals cases h; rfl

/-! ## What a step can be -/

/-- A step on a reset input. -/
theorem step_reset {s : State} {rest : List HostInput} (h : s.inputs = .reset :: rest) :
    step s = .next (applyReset { s with inputs := rest }) := by
  simp only [step, fetch_cons h]

/-- A step on a command, before its decoding is known. -/
theorem step_command {s : State} {w : Word} {vin : List Byte} {rest : List HostInput}
    (h : s.inputs = .command w vin :: rest) :
    step s = match decode w vin with
      | .instr i => exec i { s with inputs := rest }
      | .illegal c => .next (State.respond ⟨.illegal, c.code, []⟩ { s with inputs := rest }) := by
  simp only [step, fetch_cons h]
  rfl

/-- The host's runner, one step at a time. -/
theorem run_succ (M : Host.Core) (n : Nat) {s t : M.State} (h : M.step s = .next t) :
    M.run (n + 1) s = M.run n t := by simp [Host.Core.run, h]

/-- A run of operations from a state that one of them reaches. -/
theorem execAll_cons {i : Instr} {is : List Instr} {s t : State} (h : exec i s = .next t) :
    execAll (i :: is) s = execAll is t := by simp [execAll, h]

/-- Two runs of operations, one after the other. -/
theorem execAll_append {xs ys : List Instr} {s t : State} (h : execAll xs s = .next t) :
    execAll (xs ++ ys) s = execAll ys t := by
  induction xs generalizing s with
  | nil => cases h; rfl
  | cons i xs ih =>
    obtain ⟨u, -, hu, -⟩ := exec_answers i s
    rw [execAll_cons hu] at h
    rw [List.cons_append, execAll_cons hu]
    exact ih h

/-- The inversion of `step`: a reset input, a command that runs, or a command that raises. -/
theorem step_cases {s t : State} (h : step s = .next t) :
    (∃ rest, s.inputs = .reset :: rest ∧ t = applyReset { s with inputs := rest }) ∨
    (∃ w vin rest i, s.inputs = .command w vin :: rest ∧ decode w vin = .instr i ∧
      exec i { s with inputs := rest } = .next t) ∨
    (∃ w vin rest c, s.inputs = .command w vin :: rest ∧ decode w vin = .illegal c ∧
      t = State.respond ⟨.illegal, c.code, []⟩ { s with inputs := rest }) := by
  unfold step at h
  cases hi : s.inputs with
  | nil => simp [fetch_nil hi] at h
  | cons x rest =>
    rw [fetch_cons hi] at h
    cases x with
    | reset => exact .inl ⟨rest, rfl, by simpa using h.symm⟩
    | command w vin =>
      cases hd : decode w vin with
      | instr i => exact .inr (.inl ⟨w, vin, rest, i, rfl, hd, by simpa [hd] using h⟩)
      | illegal c => exact .inr (.inr ⟨w, vin, rest, c, rfl, hd, by simpa [hd] using h.symm⟩)

end Sys2Proof.Machine
end

