-- ==== Sys2Proof/Laws/PerInstr.lean ====
section
/-! SUPPORT. The family EncodeMatchesRow, one lemma per constructor of Instr: the command of an operation
lies in its row of the opcode map (spec/30_encoding.md R84), for every operand. -/

namespace Sys2Proof.Laws.EncodeMatchesRow

/-- The word has the row's fixed bits under the row's mask, and a well-formed operation presents as many
bytes as the row's L(OPC). -/
def Statement (i : Instr) : Prop :=
  encodeWord i &&& i.opcode.maskBits = i.opcode.matchBits ∧
    (i.wellFormed = true → (encodeVin i).length = i.opcode.vinLen)

theorem nop : Statement .nop := ⟨by decide, fun _ => rfl⟩

theorem crcInit : Statement .crcInit := ⟨by decide, fun _ => rfl⟩

theorem crcByte (b : Byte) : Statement (.crcByte b) := ⟨by revert b; decide, fun _ => rfl⟩

theorem crcRead : Statement .crcRead := ⟨by decide, fun _ => rfl⟩

theorem fecEncode (d : List Byte) : Statement (.fecEncode d) :=
  ⟨(by decide : encodeWord (.fecEncode []) &&& Opcode.fecEncode.maskBits = Opcode.fecEncode.matchBits),
    fun h => beq_iff_eq.mp h⟩

theorem fecSyndrome (p : List Byte) : Statement (.fecSyndrome p) :=
  ⟨(by decide : encodeWord (.fecSyndrome []) &&& Opcode.fecSyndrome.maskBits = Opcode.fecSyndrome.matchBits),
    fun h => beq_iff_eq.mp h⟩

theorem txAssemble (d : List Byte) : Statement (.txAssemble d) :=
  ⟨(by decide : encodeWord (.txAssemble []) &&& Opcode.txAssemble.maskBits = Opcode.txAssemble.matchBits),
    fun h => beq_iff_eq.mp h⟩

theorem rxPush (b : Byte) : Statement (.rxPush b) := ⟨by revert b; decide, fun _ => rfl⟩

theorem rxValidate (f : List Byte) : Statement (.rxValidate f) :=
  ⟨(by decide : encodeWord (.rxValidate []) &&& Opcode.rxValidate.maskBits = Opcode.rxValidate.matchBits),
    fun h => beq_iff_eq.mp h⟩

theorem arbTick : Statement .arbTick := ⟨by decide, fun _ => rfl⟩

theorem chSample (ch : Byte) (raw : Half) : Statement (.chSample ch raw) := by
  refine ⟨?_, fun _ => rfl⟩
  simp only [encodeWord, packWord, Instr.opcode, Opcode.byte, Opcode.maskBits, Opcode.matchBits]
  ext i hi
  interval_cases i <;> simp

theorem regRead (reg : Byte) : Statement (.regRead reg) := ⟨by revert reg; decide, fun _ => rfl⟩

end Sys2Proof.Laws.EncodeMatchesRow
end

