-- ==== Sys2Proof/Machine/Assembler.lean ====
section
/-! DEFINITION. The assembler syntax (spec/30_encoding.md R88): one operation a line, `;` starting a
comment, numbers decimal or `0x` hexadecimal, vector bytes in hexadecimal, the register names of R32, and
the pseudo-instructions of R89. A line of another form, a number too large for its field, or a vector of
the wrong length assembles to nothing (log entry 14). -/

namespace Sys2Proof.Machine

/-- A token of a line. -/
inductive Token where
  | word (cs : List Char)
  | comma
  | lbracket
  | rbracket
  deriving DecidableEq, Repr

/-- A word collected in reverse, put in front of the tokens after it. -/
def closeWord (acc : List Char) (rest : List Token) : List Token :=
  if acc.isEmpty then rest else .word acc.reverse :: rest

/-- The tokens of a line; `acc` is the word being read, in reverse. -/
def tokenize (acc : List Char) : List Char → List Token
  | [] => closeWord acc []
  | c :: cs =>
    if c = ';' then closeWord acc []
    else if c = ' ' ∨ c = '\t' then closeWord acc (tokenize [] cs)
    else if c = ',' then closeWord acc (.comma :: tokenize [] cs)
    else if c = '[' then closeWord acc (.lbracket :: tokenize [] cs)
    else if c = ']' then closeWord acc (.rbracket :: tokenize [] cs)
    else tokenize (c :: acc) cs

/-- A digit in a base up to 16. -/
def digit? (base : Nat) (c : Char) : Option Nat :=
  let v :=
    if '0' ≤ c ∧ c ≤ '9' then c.toNat - '0'.toNat
    else if 'a' ≤ c ∧ c ≤ 'f' then c.toNat - 'a'.toNat + 10
    else if 'A' ≤ c ∧ c ≤ 'F' then c.toNat - 'A'.toNat + 10
    else base
  if v < base then some v else none

/-- The digits of a number, most significant first, onto the value read so far. -/
def digits? (base : Nat) (acc : Nat) : List Char → Option Nat
  | [] => some acc
  | c :: cs => (digit? base c).bind fun v => digits? base (base * acc + v) cs

/-- A number, decimal or `0x` hexadecimal (R88). -/
def number? : List Char → Option Nat
  | [] => none
  | '0' :: 'x' :: c :: cs => digits? 16 0 (c :: cs)
  | c :: cs => digits? 10 0 (c :: cs)

/-- A number that fits in `n` bits. -/
def operand? (n : Nat) (cs : List Char) : Option (BitVec n) :=
  (number? cs).bind fun v => if v < 2 ^ n then some (BitVec.ofNat n v) else none

/-- A byte of a vector: hexadecimal digits (R88). -/
def hexByte? (cs : List Char) : Option Byte :=
  if cs.isEmpty then none
  else (digits? 16 0 cs).bind fun v => if v < 256 then some (BitVec.ofNat 8 v) else none

/-- The bytes up to the closing bracket, and the tokens after it. -/
def vector? : List Token → Option (List Byte × List Token)
  | .rbracket :: rest => some ([], rest)
  | .word cs :: rest =>
    (hexByte? cs).bind fun b => (vector? rest).map fun r => (b :: r.1, r.2)
  | _ => none

/-- The numbers of the registers REG.READ accepts by name (R88, R32). -/
def regNames : List (String × Byte) :=
  [("SYNC_CURSOR", 0x00), ("CRC_ACC", 0x01), ("TIMEOUT_CNT", 0x02), ("TIMEOUT_THRESHOLD", 0x03),
   ("CNT_DISCARD", 0x04), ("CNT_VALID", 0x05), ("CNT_CORRECTED", 0x06), ("CNT_FAILED", 0x07)] ++
  [("RCIN0", 0x10), ("RCIN1", 0x11), ("RCIN2", 0x12), ("RCIN3", 0x13),
   ("RCIN4", 0x14), ("RCIN5", 0x15), ("RCIN6", 0x16), ("RCIN7", 0x17)] ++
  [("RCCMD0", 0x18), ("RCCMD1", 0x19), ("RCCMD2", 0x1A), ("RCCMD3", 0x1B),
   ("RCCMD4", 0x1C), ("RCCMD5", 0x1D), ("RCCMD6", 0x1E), ("RCCMD7", 0x1F)]

/-- The operand of REG.READ: a register's name or its number (R88). -/
def regOperand? (cs : List Char) : Option Byte :=
  match regNames.find? fun r => r.1.toList == cs with
  | some r => some r.2
  | none => operand? 8 cs

/-- The vector operations by mnemonic, each with the operation it names. -/
def vectorOps : List (String × (List Byte → Instr)) :=
  [("FEC.ENCODE", .fecEncode), ("FEC.SYNDROME", .fecSyndrome), ("TX.ASSEMBLE", .txAssemble),
   ("RX.VALIDATE", .rxValidate)]

/-- A vector operation of the required length. -/
def vectorInstr? (m : List Char) (bytes : List Byte) : Option Instr :=
  (vectorOps.find? fun r => r.1.toList == m).bind fun r =>
    if (r.2 bytes).wellFormed then some (r.2 bytes) else none

/-- A line without an operand (format N). -/
def plainInstr? (m : List Char) : Option Instr :=
  if m = "NOP".toList then some .nop
  else if m = "CRC.INIT".toList then some .crcInit
  else if m = "CRC.READ".toList then some .crcRead
  else if m = "ARB.TICK".toList then some .arbTick
  else none

/-- A line with one scalar operand (formats B and R). -/
def scalarInstr? (m x : List Char) : Option Instr :=
  if m = "CRC.BYTE".toList then (operand? 8 x).map .crcByte
  else if m = "RX.PUSH".toList then (operand? 8 x).map .rxPush
  else if m = "REG.READ".toList then (regOperand? x).map .regRead
  else none

/-- A line with one vector: a V-format operation, CRC.BLOCK or RX.DRAIN. -/
def vectorLine? (m : List Char) (bytes : List Byte) : Option (List Instr) :=
  if m = "CRC.BLOCK".toList then some (Pseudo.crcBlock bytes).expand
  else if m = "RX.DRAIN".toList then some (Pseudo.rxDrain bytes).expand
  else (vectorInstr? m bytes).map fun i => [i]

/-- A line with two vectors: CYCLE, whose second is the 50-byte data span of TX.ASSEMBLE. -/
def cycleLine? (m : List Char) (rx d : List Byte) : Option (List Instr) :=
  if m = "CYCLE".toList ∧ d.length = 50 then some (Pseudo.cycle rx d).expand else none

/-- The operations a line's tokens stand for (R88, R89). An empty line stands for none. -/
def parseTokens : List Token → Option (List Instr)
  | [] => some []
  | [.word m] => (plainInstr? m).map fun i => [i]
  | [.word m, .word x] => (scalarInstr? m x).map fun i => [i]
  | [.word m, .word ch, .comma, .word raw] =>
    if m = "CH.SAMPLE".toList then
      (operand? 8 ch).bind fun c => (operand? 16 raw).map fun r => [.chSample c r]
    else none
  | .word m :: .lbracket :: rest =>
    match vector? rest with
    | some (bytes, []) => vectorLine? m bytes
    | some (rx, .comma :: .lbracket :: rest') =>
      match vector? rest' with
      | some (d, []) => cycleLine? m rx d
      | _ => none
    | _ => none
  | _ => none

/-- The operations one line of assembler text stands for. -/
def assembleLine (line : List Char) : Option (List Instr) := parseTokens (tokenize [] line)

end Sys2Proof.Machine
end

