-- ==== Sys2Proof/Tests/Slice0.lean ====
section
/-! SUPPORT. The model's own tests. Expected values are those of spec/95_test_vectors.md, named by their
V-numbers, of the encodings of spec/30_encoding.md R81, R84, R88, and of the causes of R85, R300. After
them, a witness for the hypotheses of each statement that has some. -/

namespace Sys2Proof.Tests

open Sys2Proof Sys2Proof.Machine

/-! ## Inputs -/

/-- `n` zero bytes. -/
def zeros (n : Nat) : List Byte := List.replicate n 0

/-- F-T1. -/
def frameT1 : List Byte :=
  [0xFE, 0xED, 0xBE, 0xEF, 0x64, 0, 0, 0, 0xC8, 0, 0, 0, 0x2C, 0x01] ++ zeros 40 ++ [0xAC, 0x2D] ++ zeros 6 ++
    [0xC7, 0x8C]

/-- F-Z. -/
def frameZ : List Byte := [0xFE, 0xED, 0xBE, 0xEF] ++ zeros 58 ++ [0x76, 0xE6]

/-- F-A. -/
def frameA : List Byte :=
  [0xFE, 0xED, 0xBE, 0xEF, 0xE8, 0x03, 0x4C, 0x04, 0xB0, 0x04, 0x14, 0x05, 0x78, 0x05, 0xDC, 0x05] ++
    [0x40, 0x06, 0xA4, 0x06] ++ zeros 34 ++ [0x06, 0x40] ++ zeros 6 ++ [0xC9, 0xBE]

/-- F-B. -/
def frameB : List Byte :=
  [0xFE, 0xED, 0xBE, 0xEF, 0xD0, 0x07, 0xD1, 0x07, 0xD2, 0x07, 0xFF, 0xFF, 0xD4, 0x07, 0xD5, 0x07] ++
    [0xD6, 0x07, 0xD7, 0x07] ++ zeros 34 ++ [0xD4, 0] ++ zeros 6 ++ [0x89, 0xCB]

/-- F-Bc: F-B with frame byte 11 changed to 7F. -/
def frameBc : List Byte := frameB.set 11 0x7F

/-- An instance with threshold 3, as the vectors assume. -/
def start : State := State.resetWith 3

/-- `start` with the first `n` bytes of a frame accepted, the rest of RXBUF stale. -/
def accepted (f : List Byte) (n : Fin 64) : State :=
  { start with syncCursor := n, rxbuf := Vector.ofFn fun i => if i < n then byteAt f i.val else 0xA5 }

/-- `start` with one command presented. -/
def presented (w : Word) (vin : List Byte) : State := { start with inputs := [.command w vin] }

/-- The next state, if there is one. -/
def nextOf (o : Host.Outcome State Fault Refusal) : Option State :=
  match o with
  | .next t => some t
  | .fault _ => none
  | .refused _ => none

/-- The response a step adds. -/
def answer (o : Host.Outcome State Fault Refusal) : Option Response := (nextOf o).bind (·.responses.getLast?)

/-- The step on a command answers ILLEGAL with this cause and changes nothing else. -/
def rejects (w : Word) (n : Nat) (cause : Half) : Bool :=
  nextOf (step (presented w (zeros n))) == some { start with responses := [⟨.illegal, cause, []⟩] }

/-! ## Well-formedness: an ill-formed term for each check (R82) -/

theorem test_wf_fecEncode : Instr.wellFormed (.fecEncode (zeros 49)) = false := by decide
theorem test_wf_fecSyndrome : Instr.wellFormed (.fecSyndrome (zeros 50)) = false := by decide
theorem test_wf_txAssemble : Instr.wellFormed (.txAssemble (zeros 51)) = false := by decide
theorem test_wf_rxValidate : Instr.wellFormed (.rxValidate (zeros 63)) = false := by decide

/-! ## Decoding: a word for each constructor (R84, R88), and the fixed numbering -/

theorem test_decode_formatN :
    decode 0x00000000 [] = .instr .nop ∧ decode 0x01000000 [] = .instr .crcInit ∧
    decode 0x03000000 [] = .instr .crcRead ∧ decode 0x40000000 [] = .instr .arbTick := by decide

theorem test_decode_formatB :
    decode 0x02000031 [] = .instr (.crcByte 0x31) ∧ decode 0x300000FE [] = .instr (.rxPush 0xFE) := by decide

theorem test_decode_formatC : decode 0x41FFFFFE [] = .instr (.chSample 0xFF 0xFFFE) := by decide

theorem test_decode_formatR : decode 0x501B0000 [] = .instr (.regRead 0x1B) := by decide

theorem test_decode_formatV :
    decode 0x10000000 (zeros 50) = .instr (.fecEncode (zeros 50)) ∧
    decode 0x11000000 (zeros 58) = .instr (.fecSyndrome (zeros 58)) ∧
    decode 0x20000000 (zeros 50) = .instr (.txAssemble (zeros 50)) ∧
    decode 0x31000000 frameT1 = .instr (.rxValidate frameT1) := by decide

/-- A table word of 32 bits, and TX.ASSEMBLE with its operand bytes zero. -/
theorem test_decodeTableWord :
    decodeTableWord 32 0x410305DC = some (.chSample 3 1500) ∧
    decodeTableWord 32 0x20000000 = some (.txAssemble (zeros 50)) ∧
    decodeTableWord 32 0x04000000 = none := by decide

/-- The placed command is the next one to run. -/
theorem test_withFetchWord :
    (nextOf (step (start.withFetchWord 32 0x410305DC))).map (·.rcin[3]) = some 1500 := by decide

/-! ## Rejections (V-ILL-1 to V-ILL-13, V-SY-7, V-TX-4) -/

theorem test_ill_opcode :
    rejects 0x04000000 0 1 = true ∧ rejects 0xFF000000 0 1 = true ∧ rejects 0x51000000 0 1 = true := by decide

theorem test_ill_reserved :
    rejects 0x01000001 0 2 = true ∧ rejects 0x40010000 0 2 = true ∧ rejects 0x50010001 0 2 = true ∧
    rejects 0x10000100 3 2 = true ∧ rejects 0x300001FE 0 2 = true ∧ rejects 0x20000001 50 2 = true := by decide

theorem test_ill_vin :
    rejects 0x10000000 49 3 = true ∧ rejects 0x11000000 50 3 = true ∧ rejects 0x00000000 1 3 = true ∧
    rejects 0x41000000 1 3 = true ∧ rejects 0x20000000 51 3 = true ∧ rejects 0x31000000 63 3 = true := by decide

theorem test_ill_reg : rejects 0x50080000 0 4 = true ∧ rejects 0x50200000 0 4 = true := by decide

/-- Both ends of every range of R86. -/
theorem test_illegal_opcode_ranges :
    [0x04, 0x0F, 0x12, 0x1F, 0x21, 0x2F, 0x32, 0x3F, 0x42, 0x4F, 0x51, 0xFF].all
      (fun o => decode (packWord o 0 0) [] == .illegal .illOpcode) = true := by decide

/-! ## CRC-16 -/

/-- V-CRC-1. -/
theorem test_crcStep :
    [crcStep 0xFFFF 0x00, crcStep 0x0000 0x01, crcStep 0x1234 0x56, crcStep 0x8000 0x00, crcStep 0x00FF 0xFF] =
      [0xE1F0, 0x1021, 0x3C40, 0x9188, 0xE1F0] := by decide

/-- V-CRC-2, the check value of "123456789". -/
theorem test_crc16 : crc16 [0x31, 0x32, 0x33, 0x34, 0x35, 0x36, 0x37, 0x38, 0x39] = 0x29B1 := by decide

/-- V-CRC-4 (state and CRC.READ; the response of CRC.INIT is rule R112's). -/
theorem test_crcInit :
    nextOf (exec .crcInit { start with crcAcc := 0x29B1 }) =
      some { start with responses := [⟨.ok, 0xFFFF, []⟩] } := by decide
theorem test_crcRead : answer (exec .crcRead start) = some ⟨.ok, 0xFFFF, []⟩ := by decide

/-- V-CRC-4. -/
theorem test_crcByte :
    nextOf (exec (.crcByte 0) start) =
      some { start with crcAcc := 0xE1F0, responses := [⟨.ok, 0xE1F0, []⟩] } := by decide

/-! ## Parity and syndrome -/

/-- V-FEC-1, the row with data in group 6. -/
theorem test_fecEncode :
    answer (exec (.fecEncode (zeros 48 ++ [0x5A, 0x0F])) start) =
      some ⟨.ok, 0, [0, 0, 0, 0, 0, 0, 0x55, 0]⟩ := by decide

/-- V-FEC-2, the rows with groups 0 and 6, and with the empty group 7. -/
theorem test_fecSyndrome :
    answer (exec (.fecSyndrome (((payloadSpan frameT1).set 49 0x80).set 2 0x01)) start) =
      some ⟨.ok, 0x0041, [0x01, 0, 0, 0, 0, 0, 0x80, 0]⟩ := by decide
theorem test_fecSyndrome_group7 :
    answer (exec (.fecSyndrome ((payloadSpan frameT1).set 57 0x33)) start) =
      some ⟨.ok, 0x0080, [0, 0, 0, 0, 0, 0, 0, 0x33]⟩ := by decide

/-! ## Frame codec and validator -/

/-- V-TX-1. -/
theorem test_txAssemble :
    nextOf (exec (.txAssemble ((payloadSpan frameT1).take 50)) start) =
      some { start with responses := [⟨.ok, 0x8CC7, frameT1⟩] } := by decide +kernel

/-- V-VA-2. -/
theorem test_rxValidate_corrected :
    nextOf (exec (.rxValidate (frameT1.set 14 0x04)) start) =
      some { start with responses := [⟨.ok, 3, frameT1⟩] } := by decide +kernel

/-- V-VA-3: a parity error is not corrected. -/
theorem test_rxValidate_failed :
    answer (exec (.rxValidate (frameT1.set 55 0x29)) start) = some ⟨.ok, 4, frameT1.set 55 0x29⟩ := by decide +kernel

/-! ## Synchronizer -/

/-- V-SY-3: the FE of a frame after a stray FE is discarded. -/
theorem test_rxPush_discard :
    nextOf (exec (.rxPush 0xFE) (accepted frameA 1)) =
      some { accepted frameA 1 with syncCursor := 0, cntDiscard := 1, responses := [⟨.ok, 1, []⟩] } := by decide

/-- P3: the last byte of F-Bc over the overrides of F-A. The frame is corrected and channel 3 keeps 1300. -/
theorem test_rxPush_corrected :
    (nextOf (exec (.rxPush 0xCB) { accepted frameBc 63 with
      timeoutCnt := 2, rccmd := #v[1000, 1100, 1200, 1300, 1400, 1500, 1600, 1700] })).map
        (fun t => (t.syncCursor, t.timeoutCnt, t.rccmd, t.cntCorrected, t.responses)) =
      some (0, 0, #v[2000, 2001, 2002, 1300, 2004, 2005, 2006, 2007], 1, [⟨.ok, 3, frameB⟩]) := by decide +kernel

/-! ## Arbiter -/

/-- V-ARB-5, the third tick and the one before it. -/
theorem test_arbTick_clears :
    nextOf (exec .arbTick { start with timeoutCnt := 2, rccmd := Vector.replicate 8 1000 }) =
      some { start with responses := [⟨.ok, 1, []⟩] } := by decide
theorem test_arbTick_counts :
    nextOf (exec .arbTick { start with timeoutCnt := 1, rccmd := Vector.replicate 8 1000 }) =
      some { start with
        timeoutCnt := 2, rccmd := Vector.replicate 8 1000, responses := [⟨.ok, 0, []⟩] } := by decide

/-- V-CH-3 and V-CH-4. -/
theorem test_chSample :
    nextOf (exec (.chSample 7 0) { start with
      rcin := #v[1234, 0, 0, 1500, 0, 0, 0, 9], rccmd := Vector.replicate 8 0x07D7 }) =
      some { start with
        rcin := #v[1234, 0, 0, 1500, 0, 0, 0, 0], rccmd := Vector.replicate 8 0x07D7
        responses := [⟨.ok, 0x07D7, []⟩] } := by decide
theorem test_chSample_outside :
    nextOf (exec (.chSample 8 999) { start with rccmd := Vector.replicate 8 7 }) =
      some { start with rccmd := Vector.replicate 8 7, responses := [⟨.ok, 999, []⟩] } := by decide

/-! ## Control -/

/-- V-REG-6. -/
theorem test_nop : nextOf (exec .nop start) = some { start with responses := [⟨.ok, 0, []⟩] } := by decide

/-- V-REG-3, V-REG-7, and the two register banks of R32. -/
theorem test_regRead :
    answer (exec (.regRead 0x03) start) = some ⟨.ok, 3, []⟩ ∧
    answer (exec (.regRead 0x00) (accepted frameA 3)) = some ⟨.ok, 3, []⟩ := by decide
theorem test_regRead_banks :
    answer (exec (.regRead 0x17) { start with rcin := #v[0, 1, 2, 3, 4, 5, 6, 70] }) = some ⟨.ok, 70, []⟩ ∧
    answer (exec (.regRead 0x18) { start with rccmd := #v[80, 1, 2, 3, 4, 5, 6, 7] }) = some ⟨.ok, 80, []⟩ := by
  decide

/-! ## Assembler and pseudo-instructions (the examples of R88, R89) -/

theorem test_assembler :
    assembleLine "RX.PUSH 0xFE".toList = some [.rxPush 0xFE] ∧
    assembleLine "CH.SAMPLE 3, 1500 ; sample".toList = some [.chSample 3 1500] ∧
    assembleLine "REG.READ RCCMD3".toList = some [.regRead 0x1B] ∧
    assembleLine "CRC.BYTE 256".toList = none := by decide
theorem test_pseudo :
    assembleLine "CRC.BLOCK [31 32]".toList = some [.crcInit, .crcByte 0x31, .crcByte 0x32, .crcRead] ∧
    assembleLine "RX.DRAIN [FE 0A]".toList = some [.rxPush 0xFE, .rxPush 0x0A] ∧
    (Pseudo.cycle [0xFE] (zeros 50)).expand = [.arbTick, .rxPush 0xFE, .txAssemble (zeros 50)] := by decide

/-! ## Reset and waiting -/

/-- R400: a reset input in the middle of a frame. -/
theorem test_reset_input :
    (nextOf (step { accepted frameA 40 with inputs := [.reset], crcAcc := 5, cntValid := 9 })).map
      (fun t => (t.syncCursor, t.crcAcc, t.cntValid, t.timeoutThreshold, t.responses)) =
      some (0, 0xFFFF, 0, 3, []) := by decide

/-- R406: with nothing presented there is no step. -/
theorem test_no_input : step start = .fault .noOperation := rfl

/-! ## Witnesses: each statement's hypotheses are met -/

theorem witness_DecodeOfEncode :
    Instr.wellFormed (.fecEncode (zeros 50)) = true ∧ Instr.wellFormed (.chSample 0xFF 0xFFFF) = true := by decide

theorem witness_EncodeOfDecode : decode 0x41FF0000 [] = .instr (.chSample 0xFF 0) := by decide

theorem witness_StepRunsDecodedCommand :
    (presented 0x300000FE []).inputs = .command 0x300000FE [] :: [] ∧
    decode 0x300000FE [] = .instr (.rxPush 0xFE) ∧
    (presented 0xFF000000 []).inputs = .command 0xFF000000 [] :: [] ∧
    decode 0xFF000000 [] = .illegal .illOpcode := by decide

theorem witness_ResetInputResets : { start with inputs := [.reset] }.inputs = .reset :: [] := rfl

theorem witness_InstanceNeedsThreshold : (1 : Half) ≠ 0 ∧ (65535 : Half) ≠ 0 := by decide

theorem witness_StopsOnlyWithoutInput : start.inputs = [] ∧ (presented 0 []).inputs ≠ [] := by decide

theorem witness_EveryCommandAnsweredOnce : (presented 0 []).inputs = .command 0 [] :: [] := rfl

/-- The hypotheses of IllegalCommandWritesNothing on one command. -/
def IllegalStep (w : Word) (vin : List Byte) : Prop :=
  ∃ t r, step (presented w vin) = .next t ∧ t.responses = (presented w vin).responses ++ [r] ∧
    r.status = .illegal

theorem witness_IllegalCommandWritesNothing_opcode : IllegalStep 0x0F000000 [] := ⟨_, _, rfl, rfl, rfl⟩
theorem witness_IllegalCommandWritesNothing_reserved : IllegalStep 0x00000001 [] := ⟨_, _, rfl, rfl, rfl⟩
theorem witness_IllegalCommandWritesNothing_vin : IllegalStep 0x00000000 [0] := ⟨_, _, rfl, rfl, rfl⟩
theorem witness_IllegalCommandWritesNothing_reg :
    IllegalStep 0x500F0000 [] ∧ IllegalStep 0x50200000 [] := ⟨⟨_, _, rfl, rfl, rfl⟩, ⟨_, _, rfl, rfl, rfl⟩⟩

theorem witness_RunIsSequenceOfOperations :
    start.inputs = [] ∧ ∀ i ∈ [Instr.nop, .txAssemble (zeros 50), .chSample 9 1], i.wellFormed = true := by decide

/-- Thresholds 1 and 65535, the ends of R30. -/
theorem witness_InvariantAtReset : (1 : Half) ≠ 0 ∧ (0xFFFF : Half) ≠ 0 := by decide

theorem witness_InvariantKeptByStep : ∃ t,
    { accepted frameA 63 with timeoutCnt := 2, inputs := [.command 0x300000BE []] }.Inv ∧
    step { accepted frameA 63 with timeoutCnt := 2, inputs := [.command 0x300000BE []] } = .next t :=
  ⟨_, ⟨by decide, by decide, by decide⟩, rfl⟩

theorem witness_ResponseShapeKept : ∃ t,
    (∀ r ∈ { presented 0xFF000000 [] with responses := [⟨.ok, 2, frameA⟩] }.responses, r.Shaped) ∧
    step { presented 0xFF000000 [] with responses := [⟨.ok, 2, frameA⟩] } = .next t :=
  ⟨_, by simpa using ⟨by decide, by decide⟩, rfl⟩

/-- A step that moves the cursor, RXBUF, a counter, the timeout counter and the overrides. -/
theorem witness_WritersOfEachElement_frame : ∃ t,
    step { accepted frameA 63 with timeoutCnt := 2, inputs := [.command 0x300000BE []] } = .next t ∧
    t.syncCursor ≠ 63 ∧ t.rxbuf ≠ (accepted frameA 63).rxbuf ∧ t.cntValid ≠ 0 ∧ t.timeoutCnt ≠ 2 ∧
    t.rccmd ≠ (accepted frameA 63).rccmd := ⟨_, rfl, by decide +kernel, by decide +kernel, by decide +kernel, by decide +kernel, by decide +kernel⟩

theorem witness_WritersOfEachElement_crc : ∃ t,
    step (presented 0x02000031 []) = .next t ∧ t.crcAcc ≠ start.crcAcc := ⟨_, rfl, by decide⟩

theorem witness_WritersOfEachElement_sample : ∃ t,
    step (presented 0x410705DC []) = .next t ∧ t.rcin ≠ start.rcin := ⟨_, rfl, by decide⟩

theorem witness_OverridesOnlyFromValidatedFrames : ∃ t,
    step { accepted frameA 63 with inputs := [.command 0x300000BE []] } = .next t ∧
    t.rccmd[(7 : Fin 8)] ≠ (accepted frameA 63).rccmd[(7 : Fin 8)] ∧ t.rccmd[(7 : Fin 8)] ≠ 0 :=
  ⟨_, rfl, by decide +kernel, by decide +kernel⟩

theorem witness_StaleBytesUnobservable : ∃ s',
    AgreeButStale { accepted frameA 3 with inputs := [.command 0x300000EF []] }
      { accepted frameA 3 with
        inputs := [.command 0x300000EF []], rxbuf := (accepted frameA 3).rxbuf.set 3 0x77 } ∧
    step { accepted frameA 3 with inputs := [.command 0x300000EF []] } = .next s' :=
  ⟨_, ⟨rfl, by decide, rfl, rfl, rfl, rfl, rfl, rfl, rfl, rfl, rfl, rfl, rfl, rfl⟩, rfl⟩

theorem witness_SingleByteErrorChangesCrc : 57 < (zeros 58).length ∧ (0x80 : Byte) ≠ 0 := by decide

/-- ParityIsAccumulationLoop, ParityGroupSizes, TxFrameLayout: a data span, and a group below 6. -/
theorem witness_data_span : ((payloadSpan frameT1).take 50).length = 50 ∧ (5 : Nat) < 6 := by decide

/-- SyndromeAndFlags, AtMostFiftyTrials: a payload and the last group. -/
theorem witness_payload : (payloadSpan frameT1).length = 58 ∧ (7 : Nat) < 8 := by decide

/-- Every clause of SyndromeIsLinear, at the ends of its range. -/
theorem witness_SyndromeIsLinear :
    (payloadSpan frameT1).length = 58 ∧ (zeros 58).length = 58 ∧ parityConsistent (payloadSpan frameT1) = true ∧
    (49 : Nat) < 50 ∧ (7 : Nat) < 8 ∧ frameT1.length = 64 ∧ ((3 : Nat) < 4 ∨ 62 ≤ 3) ∧ ((62 : Nat) < 4 ∨ 62 ≤ 62) := by
  decide

theorem witness_VectorOperationsComplete :
    (zeros 50).length = 50 ∧ (payloadSpan frameA).length = 58 ∧ frameA.length = 64 ∧ (7 : Nat) < 8 := by decide

theorem witness_WrongVinLengthRaises :
    (zeros 49).length ≠ 50 ∧ (zeros 59).length ≠ 58 ∧ (zeros 51).length ≠ 50 ∧ (zeros 63).length ≠ 64 := by decide

theorem witness_AssembledFrameRoundTrip : (zeros 50).length = 50 ∧ start.syncCursor.val = 0 := by decide

theorem witness_ValidateIsNestedLoops : frameBc.length = 64 := by decide

/-- ValidAndFailedVerdicts: a frame of each of the three verdicts. -/
theorem witness_ValidAndFailedVerdicts :
    (validate frameZ).1 = .valid ∧ (validate (frameZ.set 62 0x77)).1 = .failed ∧ (validate frameBc).1 = .corrected := by
  decide +kernel

theorem witness_CorrectedIsFirstMatchingTrial :
    frameBc.length = 64 ∧ validate frameBc = (.corrected, frameB) := by decide +kernel

theorem witness_AcceptedFrameIsValid :
    frameBc.length = 64 ∧ (validate frameBc).1 ≠ .failed ∧ frameA.length = 64 ∧ (validate frameA).1 ≠ .failed := by
  decide +kernel

/-- The error positions at both ends of every clause. -/
theorem witness_SingleByteErrorOutcomes :
    frameT1.length = 64 ∧ crc16 ((frameT1.drop 4).take 58) = le16 (byteAt frameT1 62) (byteAt frameT1 63) ∧
    parityConsistent ((frameT1.drop 4).take 58) = true ∧ (0x04 : Byte) ≠ 0 ∧ (3 : Nat) < 4 ∧
    ((4 : Nat) ≤ 4 ∧ 4 < 54) ∧ ((4 : Nat) ≤ 53 ∧ 53 < 54) ∧ ((54 : Nat) ≤ 54 ∧ 54 < 64) ∧ (54 : Nat) ≤ 63 := by decide +kernel

theorem witness_RxPushWhileSeeking :
    (accepted frameA 0).syncCursor.val < 4 ∧ (0xFE : Byte) = [0xFE, 0xED, 0xBE, 0xEF].getD (accepted frameA 0).syncCursor.val 0 ∧
    (accepted frameA 3).syncCursor.val < 4 ∧ (accepted frameA 3).syncCursor.val = 3 ∧
    (0xFE : Byte) ≠ [0xFE, 0xED, 0xBE, 0xEF].getD (accepted frameA 3).syncCursor.val 0 := by
  decide

theorem witness_RxPushWhileAccumulating :
    4 ≤ (accepted frameA 4).syncCursor.val ∧ (accepted frameA 4).syncCursor.val + 1 < 64 ∧
    4 ≤ (accepted frameA 62).syncCursor.val ∧ (accepted frameA 62).syncCursor.val + 1 < 64 := by decide

theorem witness_RxPushCompletesFrame_valid :
    (accepted frameA 63).syncCursor.val = 63 ∧ frameA = (accepted frameA 63).rxbuf.toList.set 63 0xBE ∧
    validate frameA = (.valid, frameA) := by decide +kernel

theorem witness_RxPushCompletesFrame_corrected :
    (accepted frameBc 63).syncCursor.val = 63 ∧ frameBc = (accepted frameBc 63).rxbuf.toList.set 63 0xCB ∧
    validate frameBc = (.corrected, frameB) := by decide +kernel

theorem witness_RxPushCompletesFrame_failed :
    (accepted frameZ 63).syncCursor.val = 63 ∧ frameZ.set 63 0 = (accepted frameZ 63).rxbuf.toList.set 63 0 ∧
    validate (frameZ.set 63 0) = (.failed, frameZ.set 63 0) := by decide +kernel

/-- FrameRecoveredIffCursorZero: a well-formed frame, a state with cursor 0 and one with another. -/
theorem witness_FrameRecoveredIffCursorZero :
    wellFormedFrame frameA = true ∧ start.syncCursor.val = 0 ∧ (accepted frameA 1).syncCursor.val ≠ 0 := by decide +kernel

theorem witness_ArbTickCountsAndClears :
    { start with timeoutCnt := 2 }.timeoutCnt.toNat < 65535 ∧
    start.timeoutThreshold.toNat ≤ { start with timeoutCnt := 2 }.timeoutCnt.toNat + 1 ∧
    { start with timeoutCnt := 1 }.timeoutCnt.toNat < 65535 ∧
    { start with timeoutCnt := 1 }.timeoutCnt.toNat + 1 < start.timeoutThreshold.toNat := by decide

theorem witness_ChSampleMergesOverride :
    (7 : Byte).toNat < 8 ∧ 8 ≤ (8 : Byte).toNat ∧ 8 ≤ (255 : Byte).toNat := by decide

/-- An instance with every override active, for the failsafe. -/
def overridden : State := { start with rccmd := Vector.replicate 8 5 }

/-- FailsafeAfterThresholdTicks, the clause at the threshold: three ticks of three. -/
theorem witness_FailsafeAfterThresholdTicks_reached :
    overridden.timeoutCnt = 0 ∧ overridden.timeoutThreshold ≠ 0 ∧
    Quiet [.arbTick, .rxPush 0xFE, .arbTick, .arbTick] overridden ∧
    overridden.timeoutThreshold.toNat ≤ [Instr.arbTick, .rxPush 0xFE, .arbTick, .arbTick].count .arbTick :=
  ⟨rfl, by decide, ⟨rfl, fun _ h => by cases h; exact ⟨by decide, fun _ h => by cases h; exact ⟨rfl, fun _ h => by
    cases h; exact ⟨rfl, fun _ _ => trivial⟩⟩⟩⟩, by decide⟩

/-- FailsafeAfterThresholdTicks, the clause below the threshold: two ticks of three. -/
theorem witness_FailsafeAfterThresholdTicks_below :
    overridden.timeoutCnt = 0 ∧ overridden.timeoutThreshold ≠ 0 ∧
    Quiet [.arbTick, .rxPush 0xFE, .arbTick] overridden ∧
    [Instr.arbTick, .rxPush 0xFE, .arbTick].count .arbTick < overridden.timeoutThreshold.toNat :=
  ⟨rfl, by decide, ⟨rfl, fun _ h => by cases h; exact ⟨by decide, fun _ h => by
    cases h; exact ⟨rfl, fun _ _ => trivial⟩⟩⟩, by decide⟩

theorem witness_SampleSeesOverridesOfItsPlace :
    (accepted frameA 63).syncCursor.val = 63 ∧
    validate ((accepted frameA 63).rxbuf.toList.set 63 0xBE) = (.valid, frameA) ∧ Verdict.valid ≠ .failed ∧
    commandValue frameA (7 : Fin 8).val ≠ 0 ∧ commandValue frameA (7 : Fin 8).val ≠ 0xFFFF := by decide +kernel

/-- RegReadAnswersRegisterMap: a number of each clause, the ends of both banks among them. -/
theorem witness_RegReadAnswersRegisterMap :
    [(0x00 : Byte), 0x01, 0x02, 0x03, 0x04, 0x05, 0x06, 0x07].all (fun r => (regOfNumber r).isSome) = true ∧
    (0x10 : Byte) = 0x10 + BitVec.ofNat 8 (0 : Fin 8).val ∧ (0x17 : Byte) = 0x10 + BitVec.ofNat 8 (7 : Fin 8).val ∧
    (0x18 : Byte) = 0x18 + BitVec.ofNat 8 (0 : Fin 8).val ∧ (0x1F : Byte) = 0x18 + BitVec.ofNat 8 (7 : Fin 8).val := by
  decide

theorem witness_RegReadRejectsReservedNumbers :
    (0x08 ≤ (0x08 : Byte).toNat ∧ (0x08 : Byte).toNat ≤ 0x0F) ∧ (0x08 ≤ (0x0F : Byte).toNat ∧ (0x0F : Byte).toNat ≤ 0x0F) ∧
    (0x20 ≤ (0x20 : Byte).toNat ∧ (0x20 : Byte).toNat ≤ 0xFF) ∧
    (0x20 ≤ (0xFF : Byte).toNat ∧ (0xFF : Byte).toNat ≤ 0xFF) := by decide

theorem witness_PureAndIdempotentOperations :
    Instr.opcode (.regRead 0x08) ∈ [.nop, .crcRead, .fecEncode, .fecSyndrome, .txAssemble, .rxValidate, .regRead] ∧
    Instr.opcode (.chSample 8 0) ∈ [Opcode.crcInit, .chSample] := by decide

theorem witness_CommandFrameIsApplied : (zeros 42).length = 42 ∧ start.syncCursor.val = 0 := by decide

end Sys2Proof.Tests
end

section
/-! The step on a command, by what the command decodes to, and the statements of spec/00_scope.md. -/

namespace Sys2Proof.Machine

/-! ## A command that runs and a command that raises -/

/-- A command that decodes runs its operation on the state from which it has been taken (R3, R85). -/
theorem step_of_decode_instr {s : State} {w : Word} {vin : List Byte} {rest : List HostInput} {i : Instr}
    (h : s.inputs = .command w vin :: rest) (hd : decode w vin = .instr i) :
    step s = exec i { s with inputs := rest } := by
  simp only [step_command h, hd]

/-- A command that does not decode raises its cause and is taken, and that is all (R300). -/
theorem step_of_decode_illegal {s : State} {w : Word} {vin : List Byte} {rest : List HostInput}
    {c : IllegalCause} (h : s.inputs = .command w vin :: rest) (hd : decode w vin = .illegal c) :
    step s = .next (State.respond ⟨.illegal, c.code, []⟩ { s with inputs := rest }) := by
  simp only [step_command h, hd]

/-! ## The obligations -/

/-- Settles O6: the two cases of the decoder, each by its step rule. -/
theorem stepRunsDecodedCommand : Obligations.StepRunsDecodedCommand := by
  intro s w vin rest h
  exact ⟨fun _ hd => step_of_decode_instr h hd, fun _ hd => step_of_decode_illegal h hd⟩

/-- Settles O11: a command that decodes is answered by its operation (`exec_answers`), one that does not
by the exception. -/
theorem everyCommandAnsweredOnce : Obligations.EveryCommandAnsweredOnce := by
  intro s w vin rest h
  cases hd : decode w vin with
  | instr i =>
    rw [step_of_decode_instr h hd]
    exact exec_answers i { s with inputs := rest }
  | illegal c => exact ⟨_, _, step_of_decode_illegal h hd, rfl, rfl, rfl, rfl⟩

end Sys2Proof.Machine
end

section
/-! The state between operations (spec/10_state.md): the values at reset, the invariant and that every step
keeps it, which operations write which element, that the stale bytes of RXBUF do not show, and the register
map. -/

namespace Sys2Proof.Machine

/-! ## What an operation writes -/

/-- The effect of operation `i` on state `s`: it answers and writes nothing, or it is one of the writers of
R23 to R30, writes its own element and answers. -/
inductive Effect (s : State) : Instr → State → Prop
  /-- A pure operation, or a refused one. -/
  | answer (i : Instr) (r : Response) : Effect s i (s.respond r)
  | crcInit (r : Response) : Effect s .crcInit ((s.setCrcAcc crcInit).respond r)
  | crcByte (b : Byte) (r : Response) :
      Effect s (.crcByte b) ((s.setCrcAcc (crcStep s.crcAcc b)).respond r)
  /-- CH.SAMPLE of a channel that exists. -/
  | sample (ch : Byte) (raw : Half) (r : Response) (h : ch.toNat < 8) :
      Effect s (.chSample ch raw) ((s.setRcin ⟨ch.toNat, h⟩ raw).respond r)
  /-- ARB.TICK at the threshold. -/
  | clear (r : Response) (h : s.timeoutThreshold ≤ s.timeoutCnt + 1) :
      Effect s .arbTick (((s.setTimeoutCnt 0).setRccmd noOverrides).respond r)
  /-- ARB.TICK below it. -/
  | count (r : Response) (h : ¬s.timeoutThreshold ≤ s.timeoutCnt + 1) :
      Effect s .arbTick ((s.setTimeoutCnt (s.timeoutCnt + 1)).respond r)
  | push (b : Byte) : Effect s (.rxPush b) (rxPush b s)

/-- The inversion of `exec`. -/
theorem exec_effect {i : Instr} {s t : State} (h : exec i s = .next t) : Effect s i t := by
  by_cases hv : i.opcode ∈ [Opcode.fecEncode, .fecSyndrome, .txAssemble, .rxValidate]
  · obtain ⟨r, -, e⟩ := exec_vector hv
    rw [e] at h
    cases h
    exact .answer i r
  · cases i
    case nop | crcRead => cases h; exact .answer _ _
    case crcInit => cases h; exact .crcInit _
    case crcByte b => cases h; exact .crcByte b _
    case chSample ch raw =>
      obtain ⟨hch, e⟩ | ⟨-, e⟩ := exec_chSample ch raw s <;> rw [e] at h <;> cases h
      · exact .sample ch raw _ hch
      · exact .answer _ _
    case arbTick =>
      obtain ⟨hc, e⟩ | ⟨hc, e⟩ := exec_arbTick s <;> rw [e] at h <;> cases h
      · exact .clear _ hc
      · exact .count _ hc
    case regRead reg =>
      obtain ⟨r, -, e⟩ | ⟨-, e⟩ := exec_regRead reg s <;> rw [e] at h <;> cases h <;>
        exact .answer _ _
    case rxPush b => cases h; exact .push b
    case fecEncode | fecSyndrome | txAssemble | rxValidate => simp [Instr.opcode] at hv

/-! ## What ARB.TICK does, by the counter -/

theorem exec_arbTick_of_reached {s : State} (h : s.timeoutThreshold ≤ s.timeoutCnt + 1) :
    exec .arbTick s = .next (((s.setTimeoutCnt 0).setRccmd noOverrides).respond ⟨.ok, 1, []⟩) := by
  obtain ⟨-, e⟩ | ⟨hn, -⟩ := exec_arbTick s
  · exact e
  · exact absurd h hn

theorem exec_arbTick_of_below {s : State} (h : ¬s.timeoutThreshold ≤ s.timeoutCnt + 1) :
    exec .arbTick s = .next ((s.setTimeoutCnt (s.timeoutCnt + 1)).respond ⟨.ok, 0, []⟩) := by
  obtain ⟨hr, -⟩ | ⟨-, e⟩ := exec_arbTick s
  · exact absurd hr h
  · exact e

/-! ## What RX.PUSH does, by the cursor and the byte -/

/-- A byte that continues the magic, or any byte of an incomplete frame behind it, is accepted. -/
theorem rxPush_of_accepted {b : Byte} {s : State} (h : s.syncCursor.val + 1 < 64)
    (hb : s.syncCursor.val < 4 → b = byteAt magic s.syncCursor.val) : rxPush b s = acceptByte b s := by
  by_cases h4 : s.syncCursor.val < 4
  · rw [rxPush, if_pos h4, if_pos (hb h4)]
  · rw [rxPush, if_neg h4, if_pos h]

theorem rxPush_of_discarded {b : Byte} {s : State} (h : s.syncCursor.val < 4)
    (hb : b ≠ byteAt magic s.syncCursor.val) : rxPush b s = discardByte s := by
  rw [rxPush, if_pos h, if_neg hb]

theorem rxPush_of_completed {b : Byte} {s : State} (h : s.syncCursor.val = 63) :
    rxPush b s = completeFrame b s := by
  rw [rxPush, if_neg (by omega), if_neg (by omega)]

/-- `rxPush_cases` with the two ways of accepting a byte as one. -/
theorem rxPush_accepted_or_discarded_or_completed (b : Byte) (s : State) :
    (s.syncCursor.val + 1 < 64 ∧ (s.syncCursor.val < 4 → b = byteAt magic s.syncCursor.val)) ∨
    (s.syncCursor.val < 4 ∧ b ≠ byteAt magic s.syncCursor.val) ∨ s.syncCursor.val = 63 := by
  obtain ⟨h, hb, -⟩ | ⟨h, hb, -⟩ | ⟨h4, h, -⟩ | ⟨h, -⟩ := rxPush_cases b s
  · exact .inl ⟨by omega, fun _ => hb⟩
  · exact .inr (.inl ⟨h, hb⟩)
  · exact .inl ⟨h, fun _ => by omega⟩
  · exact .inr (.inr h)

/-! ## What REG.READ answers, by the number -/

theorem exec_regRead_of_some {reg : Byte} {r : RegName} (h : regOfNumber reg = some r) (s : State) :
    exec (.regRead reg) s = .next (s.respond ⟨.ok, readReg r s, []⟩) := by
  obtain ⟨r', h', e⟩ | ⟨h', -⟩ := exec_regRead reg s
  · cases h.symm.trans h'
    exact e
  · cases h.symm.trans h'

theorem exec_regRead_of_none {reg : Byte} (h : regOfNumber reg = none) (s : State) :
    exec (.regRead reg) s = .next (s.respond ⟨.illegal, 4, []⟩) := by
  obtain ⟨r, h', -⟩ | ⟨-, e⟩ := exec_regRead reg s
  · cases h.symm.trans h'
  · exact e

/-! ## The open parameter -/

/-- The open parameter is one more than a number below 65535 (R30). -/
theorem timeoutThreshold_ne_zero : Config.timeoutThreshold ≠ 0 := by
  have h := Config.thresholdMinusOne.isLt
  rw [Config.timeoutThreshold]
  bv_omega

/-! ## The invariant (R24, R26, R28) -/

/-- With the cursor at 0 no byte counts as accepted (R24), so two clauses are left. -/
theorem State.Inv.of_cursor_zero {s : State} (hc : s.syncCursor = 0)
    (ht : s.timeoutCnt < s.timeoutThreshold) (ho : ∀ ch : Fin 8, s.rccmd[ch] ≠ sentinel) : s.Inv :=
  ⟨ht, ho, fun i hi => absurd hi (by simp [hc])⟩

theorem State.Inv.threshold_pos {s : State} (h : s.Inv) : 0 < s.timeoutThreshold := by
  have := h.timeout
  bv_omega

/-- The invariant does not speak of the responses. -/
theorem State.Inv.respond {s : State} (h : s.Inv) (r : Response) : (s.respond r).Inv :=
  ⟨h.timeout, h.overrides, h.magicPrefix⟩

theorem noOverrides_ne_sentinel (ch : Fin 8) : noOverrides[ch] ≠ sentinel := by
  revert ch
  decide

/-- Accepting a byte keeps the magic in front: the first four are accepted only when they are its bytes. -/
theorem acceptByte_inv {b : Byte} {s : State} (h : s.Inv) (hc : s.syncCursor.val + 1 < 64)
    (hb : s.syncCursor.val < 4 → b = byteAt magic s.syncCursor.val) : (acceptByte b s).Inv := by
  refine ⟨h.timeout, h.overrides, fun i hi h4 => ?_⟩
  have hi' : i.val < s.syncCursor.val + 1 := by
    rwa [Fin.lt_def, acceptByte, respondOk_eq, State.respond_syncCursor, setCursor_val hc] at hi
  rw [show (acceptByte b s).rxbuf = (s.storeRx b).rxbuf from rfl, storeRx_getElem]
  split
  case isTrue he => subst he; exact hb h4
  case isFalse he => exact h.magicPrefix i (by omega) h4

/-- ARB.APPLY restarts the timeout counter and stores no sentinel (R190). -/
theorem arbApply_inv {s : State} (h : s.Inv) (g : List Byte) : (arbApply g s).Inv := by
  refine ⟨h.threshold_pos, fun ch => ?_, h.magicPrefix⟩
  rw [arbApply_rccmd]
  exact overrideOf_ne_sentinel (h.overrides ch) _

/-- A completed frame leaves the cursor at 0; what its command writes is ARB.APPLY's (R152, R153). -/
theorem completeFrame_inv {s : State} (h : s.Inv) (b : Byte) : (completeFrame b s).Inv := by
  obtain ⟨g, -, e⟩ | ⟨g, -, e⟩ | ⟨g, -, e⟩ := completeFrame_cases b s <;> rw [e]
  case inl | inr.inl =>
    refine .respond (arbApply_inv ?_ g) _
    exact .of_cursor_zero rfl h.timeout h.overrides
  case inr.inr => exact .of_cursor_zero rfl h.timeout h.overrides

/-- RX.PUSH keeps the invariant, whatever the byte. -/
theorem rxPush_inv {s : State} (h : s.Inv) (b : Byte) : (rxPush b s).Inv := by
  obtain ⟨hc, hb⟩ | ⟨hc, hb⟩ | hc := rxPush_accepted_or_discarded_or_completed b s
  · rw [rxPush_of_accepted hc hb]
    exact acceptByte_inv h hc hb
  · rw [rxPush_of_discarded hc hb]
    exact .of_cursor_zero rfl h.timeout h.overrides
  · rw [rxPush_of_completed hc]
    exact completeFrame_inv h b

/-- Every operation keeps the invariant: ARB.TICK counts only below the threshold and at it starts again
from 0 with no override (R192), and RX.PUSH has its own lemma. -/
theorem exec_inv {i : Instr} {s t : State} (h : s.Inv) (ht : exec i s = .next t) : t.Inv := by
  cases exec_effect ht with
  | answer _ r => exact h.respond r
  | crcInit | crcByte | sample => exact ⟨h.timeout, h.overrides, h.magicPrefix⟩
  | clear => exact ⟨h.threshold_pos, noOverrides_ne_sentinel, h.magicPrefix⟩
  | count r hc => exact ⟨BitVec.not_le.mp hc, h.overrides, h.magicPrefix⟩
  | push b => exact rxPush_inv h b

/-- The reset input puts the invariant in place again, the threshold being what it was (R400). -/
theorem applyReset_inv {s : State} (h : s.Inv) : (applyReset s).Inv :=
  .of_cursor_zero rfl h.threshold_pos noOverrides_ne_sentinel

/-- Settles O15: the reset input, an operation, and the exception each keep the invariant, and taking an
input touches nothing it speaks of. -/
theorem invariantKeptByStep : Obligations.InvariantKeptByStep := by
  intro s t h hst
  have taken (rest : List HostInput) : State.Inv { s with inputs := rest } :=
    ⟨h.timeout, h.overrides, h.magicPrefix⟩
  obtain ⟨rest, -, rfl⟩ | ⟨w, vin, rest, i, -, -, he⟩ | ⟨w, vin, rest, c, -, -, rfl⟩ :=
    step_cases hst
  · exact applyReset_inv (taken rest)
  · exact exec_inv (taken rest) he
  · exact (taken rest).respond _

/-- Settles O14: the counter is 0, the cursor is 0, and the slots hold 0. -/
theorem invariantAtReset : Obligations.InvariantAtReset := by
  have inv (τ : Half) (hτ : τ ≠ 0) : (State.resetWith τ).Inv := by
    have hpos : 0 < τ := by bv_omega
    exact .of_cursor_zero rfl hpos noOverrides_ne_sentinel
  exact ⟨inv, inv _ timeoutThreshold_ne_zero⟩

/-! ## The parameter and the reset input (R30, R35, R400, R401) -/

/-- Settles O9: R30's range is the range of the open constant. -/
theorem instanceNeedsThreshold : Obligations.InstanceNeedsThreshold :=
  ⟨rfl, timeoutThreshold_ne_zero, fun τ hτ => ⟨State.resetWith τ, if_neg hτ, rfl⟩⟩

/-- Settles O7: each element of the reset state, read off. -/
theorem resetInputResets : Obligations.ResetInputResets := by
  intro s rest h
  exact ⟨_, step_reset h, rfl, rfl, rfl, fun ch => ⟨by simp, by simp⟩, rfl, rfl, rfl, rfl, rfl, rfl, rfl⟩

/-- An override of 0 does not hide the sample (R194). -/
@[simp] theorem effectiveValue_zero (raw : Half) : effectiveValue 0#16 raw = raw := rfl

/-- Settles O8: each element of the reset state, read off; with no override every sample shows. -/
theorem powerOnState : Obligations.PowerOnState := by
  refine ⟨rfl, fun τ => ⟨rfl, rfl, rfl, rfl, fun ch => ⟨by simp, by simp⟩, rfl, rfl, rfl, rfl,
    fun ch raw => ?_⟩⟩
  obtain ⟨hch, e⟩ | ⟨-, e⟩ := exec_chSample ch raw (State.resetWith τ)
  · exact ⟨_, e, by simp⟩
  · exact ⟨_, e, rfl⟩

/-! ## Who writes each element (R23 to R30) -/

/-- An RX.PUSH that accepts no command frame applies none: the arbiter's registers stay (R190). -/
theorem rxPush_arbiter_of_not_acceptsFrame {b : Byte} {s : State}
    (h : acceptsFrame (.rxPush b) s ≠ true) :
    (rxPush b s).timeoutCnt = s.timeoutCnt ∧ (rxPush b s).rccmd = s.rccmd := by
  obtain ⟨hc, hb⟩ | ⟨hc, hb⟩ | hc := rxPush_accepted_or_discarded_or_completed b s
  · rw [rxPush_of_accepted hc hb]; exact ⟨rfl, rfl⟩
  · rw [rxPush_of_discarded hc hb]; exact ⟨rfl, rfl⟩
  · rw [rxPush_of_completed hc]
    simp only [acceptsFrame, completionVerdict, if_pos hc, storeRx_toList] at h
    obtain ⟨g, hv, -⟩ | ⟨g, hv, -⟩ | ⟨g, -, e⟩ := completeFrame_cases b s
    · simp [hv] at h
    · simp [hv] at h
    · rw [e]; exact ⟨rfl, rfl⟩

/-- The synchronizer's elements are RX.PUSH's (R23, R24, R29). -/
theorem exec_writes_sync {i : Instr} {s t : State} (h : exec i s = .next t)
    (hw : t.syncCursor ≠ s.syncCursor ∨ t.rxbuf ≠ s.rxbuf ∨ t.cntDiscard ≠ s.cntDiscard ∨
      t.cntValid ≠ s.cntValid ∨ t.cntCorrected ≠ s.cntCorrected ∨ t.cntFailed ≠ s.cntFailed) :
    ∃ b, i = .rxPush b := by
  cases exec_effect h with
  | push b => exact ⟨b, rfl⟩
  | answer | crcInit | crcByte | sample | clear | count => simp at hw

/-- CRC_ACC is CRC.INIT's and CRC.BYTE's (R25). -/
theorem exec_writes_crcAcc {i : Instr} {s t : State} (h : exec i s = .next t)
    (hw : t.crcAcc ≠ s.crcAcc) : i = .crcInit ∨ ∃ b, i = .crcByte b := by
  cases exec_effect h with
  | crcInit => exact .inl rfl
  | crcByte b => exact .inr ⟨b, rfl⟩
  | push b =>
    obtain ⟨-, -, -, -, hcrc, -⟩ := rxPush_common b s
    exact absurd hcrc hw
  | answer | sample | clear | count => simp at hw

/-- RCIN is the in-range CH.SAMPLE's (R27). -/
theorem exec_writes_rcin {i : Instr} {s t : State} (h : exec i s = .next t) (hw : t.rcin ≠ s.rcin) :
    ∃ ch raw, ch.toNat < 8 ∧ i = .chSample ch raw := by
  cases exec_effect h with
  | sample ch raw r hch => exact ⟨ch, raw, hch, rfl⟩
  | push b =>
    obtain ⟨-, -, -, -, -, hrcin⟩ := rxPush_common b s
    exact absurd hrcin hw
  | answer | crcInit | crcByte | clear | count => simp at hw

/-- TIMEOUT_CNT and RCCMD are ARB.TICK's and those of an RX.PUSH that accepts a frame (R26, R28). -/
theorem exec_writes_arbiter {i : Instr} {s t : State} (h : exec i s = .next t)
    (hw : t.timeoutCnt ≠ s.timeoutCnt ∨ t.rccmd ≠ s.rccmd) :
    i = .arbTick ∨ ∃ b, i = .rxPush b ∧ acceptsFrame (.rxPush b) s = true := by
  cases exec_effect h with
  | clear | count => exact .inl rfl
  | push b =>
    refine .inr ⟨b, rfl, by_contra fun hn => ?_⟩
    obtain ⟨hcnt, hcmd⟩ := rxPush_arbiter_of_not_acceptsFrame hn
    exact hw.elim (absurd hcnt) (absurd hcmd)
  | answer | crcInit | crcByte | sample => simp at hw

/-- Settles O17: the reset input writes everything but the parameter, the exception nothing, and an
operation what its writers' lemmas say. -/
theorem writersOfEachElement : Obligations.WritersOfEachElement := by
  intro s t hst
  obtain ⟨rest, hin, rfl⟩ | ⟨w, vin, rest, i, hin, hd, he⟩ | ⟨w, vin, rest, c, -, -, rfl⟩ :=
    step_cases hst
  · have reset : s.NextResets := ⟨rest, hin⟩
    exact ⟨rfl, fun _ => .inl reset, fun _ => .inl reset, fun _ => .inl reset, fun _ => .inl reset,
      fun _ => .inl reset⟩
  · have runs : s.NextRuns i := ⟨w, vin, rest, hin, hd⟩
    obtain ⟨u, -, hu, -, -, hthr, -⟩ := exec_answers i { s with inputs := rest }
    cases hu.symm.trans he
    refine ⟨hthr, fun hw => .inr ?_, fun hw => .inr ?_, fun hw => .inr ?_, fun hw => .inr ?_,
      fun hw => .inr ?_⟩
    · obtain ⟨b, rfl⟩ := exec_writes_sync he hw
      exact ⟨b, runs⟩
    · obtain rfl | ⟨b, rfl⟩ := exec_writes_crcAcc he hw
      · exact .inl runs
      · exact .inr ⟨b, runs⟩
    · obtain rfl | ⟨b, rfl, ha⟩ := exec_writes_arbiter he (.inl hw)
      · exact .inl runs
      · exact .inr ⟨b, runs, ha⟩
    · obtain ⟨ch, raw, hch, rfl⟩ := exec_writes_rcin he hw
      exact ⟨ch, raw, hch, runs⟩
    · obtain rfl | ⟨b, rfl, ha⟩ := exec_writes_arbiter he (.inr hw)
      · exact .inl runs
      · exact .inr ⟨b, runs, ha⟩
  · simp

/-! ## Stale bytes of RXBUF (R24, R33) -/

/-- Agreement but for stale bytes is another content of RXBUF, the same below the cursor. -/
theorem agreeButStale_iff {s t : State} :
    AgreeButStale s t ↔
      ∃ v : Vector Byte 64, t = { s with rxbuf := v } ∧ ∀ i : Fin 64, i < s.syncCursor → s.rxbuf[i] = v[i] := by
  constructor
  · intro h
    refine ⟨t.rxbuf, ?_, h.accepted⟩
    cases s; cases t; cases h
    simp_all
  · rintro ⟨v, rfl, ha⟩
    exact ⟨rfl, ha, rfl, rfl, rfl, rfl, rfl, rfl, rfl, rfl, rfl, rfl, rfl, rfl⟩

theorem AgreeButStale.refl (s : State) : AgreeButStale s s :=
  agreeButStale_iff.mpr ⟨s.rxbuf, rfl, fun _ _ => rfl⟩

/-- An operation other than RX.PUSH does not look at RXBUF. -/
theorem exec_withRxbuf {i : Instr} {s t : State} (hi : ∀ b, i ≠ .rxPush b) (h : exec i s = .next t)
    (v : Vector Byte 64) : exec i { s with rxbuf := v } = .next { t with rxbuf := v } := by
  by_cases hv : i.opcode ∈ [Opcode.fecEncode, .fecSyndrome, .txAssemble, .rxValidate]
  · obtain ⟨r, -, e⟩ := exec_vector hv
    rw [e] at h ⊢
    cases h
    rfl
  · cases i
    case nop | crcInit | crcByte | crcRead => cases h; rfl
    case chSample ch raw =>
      obtain ⟨hc, e⟩ | ⟨hc, e⟩ := exec_chSample ch raw s <;> rw [e] at h <;> cases h
      · exact congrArg Host.Outcome.next (dif_pos hc)
      · exact congrArg Host.Outcome.next (dif_neg (Nat.not_lt.mpr hc))
    case arbTick =>
      obtain ⟨hc, e⟩ | ⟨hc, e⟩ := exec_arbTick s <;> rw [e] at h <;> cases h
      · exact exec_arbTick_of_reached (s := { s with rxbuf := v }) hc
      · exact exec_arbTick_of_below (s := { s with rxbuf := v }) hc
    case regRead reg =>
      obtain ⟨r, hr, e⟩ | ⟨hr, e⟩ := exec_regRead reg s <;> rw [e] at h <;> cases h
      · rw [exec_regRead_of_some hr]
        cases r <;> rfl
      · rw [exec_regRead_of_none hr]
        rfl
    case rxPush b => exact absurd rfl (hi b)
    case fecEncode | fecSyndrome | txAssemble | rxValidate => simp [Instr.opcode] at hv

/-- A store at the cursor makes the byte there agree too. -/
theorem storeRx_getElem_of_agree {s : State} {v : Vector Byte 64}
    (ha : ∀ i : Fin 64, i < s.syncCursor → s.rxbuf[i] = v[i]) (b : Byte) {i : Fin 64}
    (hi : i ≤ s.syncCursor) :
    (s.storeRx b).rxbuf[i] = (State.storeRx b { s with rxbuf := v }).rxbuf[i] := by
  rw [storeRx_getElem, storeRx_getElem]
  split
  case isTrue => rfl
  case isFalse hne => exact ha i (lt_of_le_of_ne hi hne)

/-- The 64th byte leaves nothing stale: the two states become one. -/
theorem storeRx_eq_of_agree {s : State} {v : Vector Byte 64} (hc : s.syncCursor.val = 63)
    (ha : ∀ i : Fin 64, i < s.syncCursor → s.rxbuf[i] = v[i]) (b : Byte) :
    State.storeRx b { s with rxbuf := v } = s.storeRx b := by
  have hbuf : (State.storeRx b { s with rxbuf := v }).rxbuf = (s.storeRx b).rxbuf :=
    Vector.ext fun i hi =>
      (storeRx_getElem_of_agree ha b (i := ⟨i, hi⟩) (Fin.le_def.mpr (by omega))).symm
  exact congrArg (fun w => ({ s with rxbuf := w } : State)) hbuf

/-- RX.PUSH keeps the agreement: an accepted byte agrees, a discard leaves no accepted byte, and at the
64th byte nothing stale is left for the validator. -/
theorem rxPush_agreeButStale {s t : State} (h : AgreeButStale s t) (b : Byte) :
    AgreeButStale (rxPush b s) (rxPush b t) := by
  obtain ⟨v, rfl, ha⟩ := agreeButStale_iff.mp h
  obtain ⟨hc, hb⟩ | ⟨hc, hb⟩ | hc := rxPush_accepted_or_discarded_or_completed b s
  · rw [rxPush_of_accepted hc hb, rxPush_of_accepted (s := { s with rxbuf := v }) hc hb]
    refine agreeButStale_iff.mpr ⟨_, rfl, fun i hi => storeRx_getElem_of_agree ha b ?_⟩
    rw [Fin.lt_def, acceptByte, respondOk_eq, State.respond_syncCursor, setCursor_val hc] at hi
    exact Fin.le_def.mpr (by omega)
  · rw [rxPush_of_discarded hc hb, rxPush_of_discarded (s := { s with rxbuf := v }) hc hb]
    exact agreeButStale_iff.mpr ⟨v, rfl, fun i hi => absurd hi (Fin.not_lt_zero i)⟩
  · rw [rxPush_of_completed hc, rxPush_of_completed (s := { s with rxbuf := v }) hc, completeFrame,
      completeFrame, storeRx_eq_of_agree hc ha]
    exact AgreeButStale.refl _

/-- Every operation keeps the agreement. -/
theorem exec_agreeButStale {i : Instr} {s t s' : State} (h : AgreeButStale s t)
    (hs : exec i s = .next s') : ∃ t', exec i t = .next t' ∧ AgreeButStale s' t' := by
  by_cases hi : ∃ b, i = .rxPush b
  · obtain ⟨b, rfl⟩ := hi
    cases hs
    exact ⟨_, rfl, rxPush_agreeButStale h b⟩
  · obtain ⟨v, rfl, ha⟩ := agreeButStale_iff.mp h
    refine ⟨_, exec_withRxbuf (not_exists.mp hi) hs v, agreeButStale_iff.mpr ⟨v, rfl, ?_⟩⟩
    have hcur : s'.syncCursor = s.syncCursor :=
      by_contra fun hn => hi (exec_writes_sync hs (.inl hn))
    have hbuf : s'.rxbuf = s.rxbuf := by_contra fun hn => hi (exec_writes_sync hs (.inr (.inl hn)))
    rwa [hcur, hbuf]

/-- Settles O19: the reset input fills RXBUF alike in both states, an operation keeps the agreement, and
the exception reads no register. -/
theorem staleBytesUnobservable : Obligations.StaleBytesUnobservable := by
  intro s t s' h hs
  obtain ⟨v, rfl, ha⟩ := agreeButStale_iff.mp h
  have taken (rest : List HostInput) :
      AgreeButStale { s with inputs := rest } { s with rxbuf := v, inputs := rest } :=
    agreeButStale_iff.mpr ⟨v, rfl, ha⟩
  obtain ⟨rest, hin, rfl⟩ | ⟨w, vin, rest, i, hin, hd, he⟩ | ⟨w, vin, rest, c, hin, hd, rfl⟩ :=
    step_cases hs
  · exact ⟨_, step_reset hin, AgreeButStale.refl _⟩
  · rw [step_of_decode_instr (s := { s with rxbuf := v }) hin hd]
    exact exec_agreeButStale (taken rest) he
  · exact ⟨_, step_of_decode_illegal hin hd, agreeButStale_iff.mpr ⟨v, rfl, ha⟩⟩

/-! ## ARB.TICK (R192) -/

/-- Settles O43: without a wrap, comparing the counters is comparing their numbers. -/
theorem arbTickCountsAndClears : Obligations.ArbTickCountsAndClears := by
  intro s hw
  have hle : s.timeoutThreshold ≤ s.timeoutCnt + 1 ↔ s.timeoutThreshold.toNat ≤ s.timeoutCnt.toNat + 1 := by
    bv_omega
  constructor
  · intro hc
    exact exec_arbTick_of_reached (hle.mpr hc)
  · intro hc
    have hcnt : s.timeoutCnt + 1 = BitVec.ofNat 16 (s.timeoutCnt.toNat + 1) := by bv_omega
    rw [← hcnt]
    exact exec_arbTick_of_below (mt hle.mp (by omega))

/-! ## The register map (R32, R211) -/

/-- The numbers of the RCIN bank. -/
theorem regOfNumber_rcin (ch : Fin 8) : regOfNumber (0x10 + BitVec.ofNat 8 ch.val) = some (.rcin ch) := by
  revert ch
  decide

/-- The numbers of the RCCMD bank. -/
theorem regOfNumber_rccmd (ch : Fin 8) : regOfNumber (0x18 + BitVec.ofNat 8 ch.val) = some (.rccmd ch) := by
  revert ch
  decide

/-- Settles O48: each number of the map selects its register. -/
theorem regReadAnswersRegisterMap : Obligations.RegReadAnswersRegisterMap := by
  rintro s reg v (⟨rfl, rfl⟩ | ⟨rfl, rfl⟩ | ⟨rfl, rfl⟩ | ⟨rfl, rfl⟩ | ⟨rfl, rfl⟩ | ⟨rfl, rfl⟩ |
    ⟨rfl, rfl⟩ | ⟨rfl, rfl⟩ | ⟨ch, rfl, rfl⟩ | ⟨ch, rfl, rfl⟩)
  · exact exec_regRead_of_some (r := .syncCursor) rfl s
  · exact exec_regRead_of_some (r := .crcAcc) rfl s
  · exact exec_regRead_of_some (r := .timeoutCnt) rfl s
  · exact exec_regRead_of_some (r := .timeoutThreshold) rfl s
  · exact exec_regRead_of_some (r := .cntDiscard) rfl s
  · exact exec_regRead_of_some (r := .cntValid) rfl s
  · exact exec_regRead_of_some (r := .cntCorrected) rfl s
  · exact exec_regRead_of_some (r := .cntFailed) rfl s
  · exact exec_regRead_of_some (regOfNumber_rcin ch) s
  · exact exec_regRead_of_some (regOfNumber_rccmd ch) s

/-- Settles O49: the reserved numbers are those that select no register. -/
theorem regReadRejectsReservedNumbers : Obligations.RegReadRejectsReservedNumbers :=
  fun s _ h => exec_regRead_of_none (regOfNumber_none.mpr h) s

end Sys2Proof.Machine
end

section
/-! The row of the opcode map a command lies in decides its decoding (spec/30_encoding.md R84, R85), and
decoding gives back what `encode` was given. -/

namespace Sys2Proof

theorem opcField_and (w m : Word) : opcField (w &&& m) = opcField w &&& opcField m := by
  ext i hi
  simp [opcField]

/-- The byte operand is the low half of IMM (R83). -/
theorem byteField_eq_immField (w : Word) : byteField w = (immField w).setWidth 8 := by
  ext i hi
  simp [byteField, immField, show i < 16 by omega]

theorem byteField_packWord (o a b : Byte) : byteField (packWord o a (b.setWidth 16)) = b := by
  rw [byteField_eq_immField, immField_packWord, BitVec.setWidth_setWidth_of_le b (by decide),
    BitVec.setWidth_eq]

/-! ## A row's mask covers its opcode and its reserved bits -/

theorem Opcode.opcField_maskBits (o : Opcode) : opcField o.maskBits = BitVec.allOnes 8 := by
  cases o <;> decide

theorem Opcode.opcField_and_maskBits (o : Opcode) (w : Word) :
    opcField (w &&& o.maskBits) = opcField w := by
  rw [opcField_and, opcField_maskBits, BitVec.and_allOnes]

theorem Opcode.reservedBits_and_maskBits (o : Opcode) (w : Word) :
    o.format.reservedBits (w &&& o.maskBits) = o.format.reservedBits w := by
  cases o <;> simp [Opcode.format, Format.reservedBits, Opcode.maskBits, BitVec.and_assoc]

theorem Opcode.reservedBits_matchBits (o : Opcode) : o.format.reservedBits o.matchBits = 0 := by
  cases o <;> decide

/-- A command of row `o` with as many bytes as the row asks for decodes to the row's operation. -/
theorem decode_of_row {o : Opcode} {w : Word} {vin : List Byte} (hw : w &&& o.maskBits = o.matchBits)
    (hv : vin.length = o.vinLen) : decode w vin = .instr (o.operands w vin) := by
  have hopc : opcField w = o.byte := by
    rw [← o.opcField_and_maskBits, hw, Opcode.matchBits, opcField_packWord]
  have hres : o.format.reservedBits w = 0 := by
    rw [← o.reservedBits_and_maskBits, hw, o.reservedBits_matchBits]
  rw [decode_of_opcode hopc, if_neg (not_not.mpr hres), if_neg (not_not.mpr hv)]

/-! ## The command of an operation -/

/-- The family of Laws/PerInstr, for every operation. -/
theorem encode_matches_row : ∀ i : Instr, Laws.EncodeMatchesRow.Statement i
  | .nop => Laws.EncodeMatchesRow.nop
  | .crcInit => Laws.EncodeMatchesRow.crcInit
  | .crcByte b => Laws.EncodeMatchesRow.crcByte b
  | .crcRead => Laws.EncodeMatchesRow.crcRead
  | .fecEncode d => Laws.EncodeMatchesRow.fecEncode d
  | .fecSyndrome p => Laws.EncodeMatchesRow.fecSyndrome p
  | .txAssemble d => Laws.EncodeMatchesRow.txAssemble d
  | .rxPush b => Laws.EncodeMatchesRow.rxPush b
  | .rxValidate f => Laws.EncodeMatchesRow.rxValidate f
  | .arbTick => Laws.EncodeMatchesRow.arbTick
  | .chSample ch raw => Laws.EncodeMatchesRow.chSample ch raw
  | .regRead reg => Laws.EncodeMatchesRow.regRead reg

/-- Assembling the operands of an operation's command gives the operation back (R83). -/
theorem operands_encode (i : Instr) : i.opcode.operands (encodeWord i) (encodeVin i) = i := by
  cases i with
  | crcByte b | rxPush b => simp [Instr.opcode, Opcode.operands, encodeWord, byteField_packWord]
  | chSample ch raw => simp [Instr.opcode, Opcode.operands, encodeWord]
  | regRead reg => simp [Instr.opcode, Opcode.operands, encodeWord]
  | nop | crcInit | crcRead | arbTick | fecEncode | fecSyndrome | txAssemble | rxValidate => rfl

theorem decode_encode {i : Instr} (hi : i.wellFormed = true) :
    decode (encodeWord i) (encodeVin i) = .instr i := by
  obtain ⟨hw, hv⟩ := encode_matches_row i
  rw [decode_of_row hw (hv hi), operands_encode]

end Sys2Proof
end

section
/-! Order and effects of operations (spec/20_memory.md R57 to R62): a run is its operations one after
another, the shape of a response, the pure and the idempotent operations, and what a sample sees. -/

namespace Sys2Proof.Machine

/-! ## A run of presented operations (R60) -/

theorem State.present_nil (s : State) : s.present [] = s := by
  cases s
  simp [State.present]

/-- A step on a presented operation is the operation, with the rest still presented. -/
theorem step_present_commandOf {i : Instr} {s t : State} {rest : List HostInput} (hs : s.inputs = [])
    (hi : i.wellFormed = true) (ht : exec i s = .next t) :
    step (s.present (commandOf i :: rest)) = .next (t.present rest) := by
  have hin : (s.present (commandOf i :: rest)).inputs = commandOf i :: rest := by simp [hs]
  obtain ⟨u, -, hu, -, hui, -⟩ := exec_answers i s
  cases hu.symm.trans ht
  have hrest : t.present rest = { t with inputs := rest } := by simp [State.present, hui, hs]
  rw [step_of_decode_instr hin (decode_encode hi), hrest]
  exact exec_withInputs ht rest

/-- Settles O13, by induction on the operations: each step takes the oldest one and is its meaning. -/
theorem runIsSequenceOfOperations : Obligations.RunIsSequenceOfOperations := by
  intro is
  induction is with
  | nil =>
    intro s _ _
    exact congrArg Host.Outcome.next s.present_nil
  | cons i is ih =>
    intro s hs hwf
    obtain ⟨t, -, ht, -, hti, -⟩ := exec_answers i s
    rw [execAll_cons ht, ← ih t (hti.trans hs) fun j hj => hwf j (List.mem_cons_of_mem i hj)]
    exact run_succ core _ (step_present_commandOf hs (hwf i List.mem_cons_self) ht)

/-! ## The shape of a response (R57, R300) -/

theorem Response.shaped_ok {v : Half} {o : List Byte}
    (h : o.length = 0 ∨ o.length = 8 ∨ o.length = 64) : (⟨.ok, v, o⟩ : Response).Shaped :=
  ⟨h, nofun⟩

theorem Response.shaped_illegal (c : IllegalCause) : (⟨.illegal, c.code, []⟩ : Response).Shaped :=
  ⟨.inl rfl, fun _ => ⟨rfl, by cases c <;> decide, by cases c <;> decide⟩⟩

/-- State `t` has been answered once more than `s`, in the shape of R57 and R300. -/
def AnsweredInShape (s t : State) : Prop := ∃ r : Response, t.responses = s.responses ++ [r] ∧ r.Shaped

theorem AnsweredInShape.shaped {s t : State} (h : AnsweredInShape s t)
    (hs : ∀ r ∈ s.responses, r.Shaped) : ∀ r ∈ t.responses, r.Shaped := by
  obtain ⟨r, ht, hr⟩ := h
  rw [ht]
  exact List.forall_mem_append.mpr ⟨hs, List.forall_mem_singleton.mpr hr⟩

/-- A vector operation answers in shape when it does so at the length it requires. -/
theorem withVin_answeredInShape {n : Nat} {v : List Byte} {f : State → State} {s : State}
    (h : v.length = n → AnsweredInShape s (f s)) : AnsweredInShape s (withVin n v f s) := by
  by_cases hv : v.length = n
  · rw [withVin_of_length hv]
    exact h hv
  · rw [withVin_of_ne hv]
    exact ⟨_, rfl, Response.shaped_illegal .illVin⟩

theorem txFrame_length {d : List Byte} (h : d.length = 50) : (txFrame d).length = 64 := by
  simp [txFrame, setChecksum, assemble, magic, txPayload, h]

/-- A byte that completes a frame is answered with the validator's 64 bytes or none, any other with none. -/
theorem rxPush_answeredInShape (b : Byte) (s : State) : AnsweredInShape s (rxPush b s) := by
  obtain ⟨hc, hb⟩ | ⟨hc, hb⟩ | hc := rxPush_accepted_or_discarded_or_completed b s
  · rw [rxPush_of_accepted hc hb]
    exact ⟨_, rfl, Response.shaped_ok (.inl rfl)⟩
  · rw [rxPush_of_discarded hc hb]
    exact ⟨_, rfl, Response.shaped_ok (.inl rfl)⟩
  · rw [rxPush_of_completed hc]
    have hlen : (validate (s.rxbuf.toList.set s.syncCursor.val b)).2.length = 64 :=
      validate_length (by simp)
    obtain ⟨g, hv, e⟩ | ⟨g, hv, e⟩ | ⟨g, -, e⟩ := completeFrame_cases b s
    · rw [e]
      rw [hv] at hlen
      exact ⟨_, rfl, Response.shaped_ok (.inr (.inr hlen))⟩
    · rw [e]
      rw [hv] at hlen
      exact ⟨_, rfl, Response.shaped_ok (.inr (.inr hlen))⟩
    · rw [e]
      exact ⟨_, rfl, Response.shaped_ok (.inl rfl)⟩

theorem exec_answeredInShape {i : Instr} {s t : State} (h : exec i s = .next t) : AnsweredInShape s t := by
  cases i with
  | nop | crcInit | crcByte | crcRead => cases h; exact ⟨_, rfl, Response.shaped_ok (.inl rfl)⟩
  | fecEncode d =>
    cases h
    exact withVin_answeredInShape fun _ => ⟨_, rfl, Response.shaped_ok (.inr (.inl (parity_length d)))⟩
  | fecSyndrome p =>
    cases h
    exact withVin_answeredInShape fun _ => ⟨_, rfl, Response.shaped_ok (.inr (.inl (syndrome_length p)))⟩
  | txAssemble d =>
    cases h
    exact withVin_answeredInShape fun hd => ⟨_, rfl, Response.shaped_ok (.inr (.inr (txFrame_length hd)))⟩
  | rxValidate f =>
    cases h
    exact withVin_answeredInShape fun hf => ⟨_, rfl, Response.shaped_ok (.inr (.inr (validate_length hf)))⟩
  | rxPush b => cases h; exact rxPush_answeredInShape b s
  | arbTick =>
    obtain ⟨-, e⟩ | ⟨-, e⟩ := exec_arbTick s <;> cases e.symm.trans h <;>
      exact ⟨_, rfl, Response.shaped_ok (.inl rfl)⟩
  | chSample ch raw =>
    obtain ⟨_, e⟩ | ⟨-, e⟩ := exec_chSample ch raw s <;> cases e.symm.trans h <;>
      exact ⟨_, rfl, Response.shaped_ok (.inl rfl)⟩
  | regRead reg =>
    obtain ⟨r, -, e⟩ | ⟨-, e⟩ := exec_regRead reg s <;> cases e.symm.trans h
    · exact ⟨_, rfl, Response.shaped_ok (.inl rfl)⟩
    · exact ⟨_, rfl, Response.shaped_illegal .illReg⟩

/-- Settles O16: the reset input answers nothing, an operation and the exception answer in shape. -/
theorem responseShapeKept : Obligations.ResponseShapeKept := by
  intro s t hs hst
  obtain ⟨rest, -, rfl⟩ | ⟨w, vin, rest, i, -, -, he⟩ | ⟨w, vin, rest, c, -, -, rfl⟩ :=
    step_cases hst
  · exact hs
  · exact (exec_answeredInShape he).shaped hs
  · exact AnsweredInShape.shaped (s := { s with inputs := rest })
      ⟨_, rfl, Response.shaped_illegal c⟩ hs

/-! ## A sample and the overrides (R62) -/

theorem exec_chSample_of_lt {ch : Byte} (h : ch.toNat < 8) (raw : Half) (s : State) :
    exec (.chSample ch raw) s = .next
      ((s.setRcin ⟨ch.toNat, h⟩ raw).respond ⟨.ok, effectiveValue s.rccmd[ch.toNat] raw, []⟩) := by
  obtain ⟨_, e⟩ | ⟨hge, -⟩ := exec_chSample ch raw s
  · exact e
  · omega

theorem exec_chSample_of_ge {ch : Byte} (h : 8 ≤ ch.toNat) (raw : Half) (s : State) :
    exec (.chSample ch raw) s = .next (s.respond ⟨.ok, raw, []⟩) := by
  obtain ⟨hlt, -⟩ | ⟨-, e⟩ := exec_chSample ch raw s
  · omega
  · exact e

/-- CH.SAMPLE of one of the eight channels, by its index (R194). -/
theorem exec_chSample_channel (ch : Fin 8) (raw : Half) (s : State) :
    exec (.chSample (BitVec.ofNat 8 ch.val) raw) s =
      .next ((s.setRcin ch raw).respond ⟨.ok, effectiveValue s.rccmd[ch] raw, []⟩) := by
  have hch : (BitVec.ofNat 8 ch.val).toNat = ch.val := by
    rw [BitVec.toNat_ofNat]
    omega
  rw [exec_chSample_of_lt (by omega)]
  simp only [hch, Fin.getElem_fin]

/-- The byte that completes an accepted frame applies the frame's command to each slot (R152, R190). -/
theorem rxPush_rccmd_of_verdict {s : State} {b : Byte} {v : Verdict} {g : List Byte}
    (hc : s.syncCursor.val = 63) (hv : validate (s.rxbuf.toList.set 63 b) = (v, g)) (hne : v ≠ .failed)
    (ch : Fin 8) : (rxPush b s).rccmd[ch] = overrideOf s.rccmd[ch] (commandValue g ch.val) := by
  rw [← hc] at hv
  rw [rxPush_of_completed hc]
  obtain ⟨g', hv', e⟩ | ⟨g', hv', e⟩ | ⟨g', hv', -⟩ := completeFrame_cases b s <;>
    cases hv.symm.trans hv'
  · rw [e]
    exact arbApply_rccmd g _ ch
  · rw [e]
    exact arbApply_rccmd g _ ch
  · exact absurd rfl hne

theorem overrideOf_of_ne {v : Half} (h : v ≠ 0xFFFF) (old : Half) : overrideOf old v = v := if_neg h

theorem effectiveValue_eq (o raw : Half) : effectiveValue o raw = if o = 0 then raw else o :=
  ite_not _ _ _

/-- Settles O46: the sample reads the slot as it stands, the push writes it, and neither touches what the
other reads otherwise. -/
theorem sampleSeesOverridesOfItsPlace : Obligations.SampleSeesOverridesOfItsPlace := by
  intro s b ch raw v g hc hv hne h0 hF
  constructor
  · have hslot : (rxPush b s).rccmd[ch] = commandValue g ch.val := by
      rw [rxPush_rccmd_of_verdict hc hv hne, overrideOf_of_ne hF]
    refine ⟨_, (execAll_cons (exec_rxPush b s)).trans (execAll_cons (exec_chSample_channel ch raw _)), ?_⟩
    rw [hslot, effectiveValue_eq, if_neg h0]
    exact List.getLast?_concat
  · refine ⟨_, (execAll_cons (exec_chSample_channel ch raw s)).trans (execAll_cons (exec_rxPush b _)),
      ?_, ?_⟩
    · obtain ⟨⟨r, -, hr⟩, -⟩ :=
        rxPush_common b ((s.setRcin ch raw).respond ⟨.ok, effectiveValue s.rccmd[ch] raw, []⟩)
      rw [hr, effectiveValue_eq]
      simp
    · rw [rxPush_rccmd_of_verdict (s := (s.setRcin ch raw).respond _) hc hv hne, overrideOf_of_ne hF]

/-! ## Pure and idempotent operations (R58) -/

theorem SameRegisters.refl (s : State) : SameRegisters s s :=
  ⟨rfl, rfl, rfl, rfl, rfl, rfl, rfl, rfl, rfl, rfl, rfl⟩

theorem sameRegisters_respond (s : State) (r : Response) : SameRegisters s (s.respond r) :=
  ⟨rfl, rfl, rfl, rfl, rfl, rfl, rfl, rfl, rfl, rfl, rfl⟩

theorem SameRegisters.readReg_eq {s t : State} (h : SameRegisters s t) (r : RegName) :
    readReg r t = readReg r s := by
  cases r with
  | syncCursor => simp only [readReg, h.syncCursor]
  | crcAcc => exact h.crcAcc
  | timeoutCnt => exact h.timeoutCnt
  | timeoutThreshold => exact h.timeoutThreshold
  | cntDiscard => exact h.cntDiscard
  | cntValid => exact h.cntValid
  | cntCorrected => exact h.cntCorrected
  | cntFailed => exact h.cntFailed
  | rcin ch => simp only [readReg, h.rcin]
  | rccmd ch => simp only [readReg, h.rccmd]

/-- The rows of R84 that R58 calls pure. -/
def pureOpcodes : List Opcode :=
  [.nop, .crcRead, .fecEncode, .fecSyndrome, .txAssemble, .rxValidate, .regRead]

/-- A pure operation gives one answer in all states with the same registers, and only answers. -/
theorem exec_pure {i : Instr} (hi : i.opcode ∈ pureOpcodes) (s : State) :
    ∃ r, ∀ t, SameRegisters s t → exec i t = .next (t.respond r) := by
  by_cases hv : i.opcode ∈ [Opcode.fecEncode, .fecSyndrome, .txAssemble, .rxValidate]
  · obtain ⟨r, -, e⟩ := exec_vector hv
    exact ⟨r, fun t _ => e t⟩
  · cases i with
    | nop => exact ⟨_, fun t _ => exec_nop t⟩
    | crcRead => exact ⟨_, fun t ht => by rw [exec_crcRead, ht.crcAcc]⟩
    | regRead reg =>
      cases hreg : regOfNumber reg with
      | some r => exact ⟨_, fun t ht => by rw [exec_regRead_of_some hreg, ht.readReg_eq]⟩
      | none => exact ⟨_, fun t _ => exec_regRead_of_none hreg t⟩
    | crcInit | crcByte | rxPush | arbTick | chSample => simp [Instr.opcode, pureOpcodes] at hi
    | fecEncode | fecSyndrome | txAssemble | rxValidate => simp [Instr.opcode] at hv

/-- Operation `i`, issued twice from `s`, gives the same answer and reaches the same registers. -/
def IdempotentFrom (i : Instr) (s : State) : Prop :=
  ∃ t u r, exec i s = .next t ∧ exec i t = .next u ∧ t.responses = s.responses ++ [r] ∧
    u.responses = t.responses ++ [r] ∧ SameRegisters t u

theorem exec_pure_idempotent {i : Instr} (hi : i.opcode ∈ pureOpcodes) (s : State) :
    IdempotentFrom i s := by
  obtain ⟨r, h⟩ := exec_pure hi s
  exact ⟨_, _, r, h s (.refl s), h _ (sameRegisters_respond s r), rfl, rfl, sameRegisters_respond _ r⟩

theorem exec_crcInit_idempotent (s : State) : IdempotentFrom .crcInit s :=
  ⟨_, _, _, exec_crcInit s, exec_crcInit _, rfl, rfl, sameRegisters_respond _ _⟩

/-- CH.SAMPLE stores the sample where it stands already, and leaves the override it answers by. -/
theorem exec_chSample_idempotent (ch : Byte) (raw : Half) (s : State) :
    IdempotentFrom (.chSample ch raw) s := by
  by_cases h : ch.toNat < 8
  · refine ⟨_, _, _, exec_chSample_of_lt h raw s, exec_chSample_of_lt h raw _, rfl, rfl, ?_⟩
    exact { SameRegisters.refl _ with rcin := by simp }
  · have hge : 8 ≤ ch.toNat := Nat.not_lt.mp h
    exact ⟨_, _, _, exec_chSample_of_ge hge raw s, exec_chSample_of_ge hge raw _, rfl, rfl,
      sameRegisters_respond _ _⟩

theorem exists_crcByte_not_idempotent : ∃ b s t u, exec (.crcByte b) s = .next t ∧
    exec (.crcByte b) t = .next u ∧ u.crcAcc ≠ t.crcAcc :=
  ⟨0, State.resetWith 3, _, _, rfl, rfl, by decide⟩

/-- A second FE breaks the magic match. -/
theorem exists_rxPush_not_idempotent : ∃ b s t u, exec (.rxPush b) s = .next t ∧
    exec (.rxPush b) t = .next u ∧ u.syncCursor ≠ t.syncCursor :=
  ⟨0xFE, State.resetWith 3, _, _, rfl, rfl, by decide⟩

/-- Under a threshold of 3 the second tick still counts. -/
theorem exists_arbTick_not_idempotent : ∃ s t u, exec .arbTick s = .next t ∧
    exec .arbTick t = .next u ∧ u.timeoutCnt ≠ t.timeoutCnt :=
  ⟨State.resetWith 3, _, _, rfl, rfl, by decide⟩

/-- Settles O50: a run for each operation that is not idempotent, and the lemmas on the pure and the
idempotent ones. -/
theorem pureAndIdempotentOperations : Obligations.PureAndIdempotentOperations := by
  refine ⟨exists_crcByte_not_idempotent, exists_rxPush_not_idempotent, exists_arbTick_not_idempotent,
    fun i s => ⟨?_, fun hi => ?_⟩⟩
  · rintro (hi | hi)
    · exact exec_pure_idempotent hi s
    · cases i with
      | crcInit => exact exec_crcInit_idempotent s
      | chSample ch raw => exact exec_chSample_idempotent ch raw s
      | nop | crcByte | crcRead | fecEncode | fecSyndrome | txAssemble | rxPush | rxValidate | arbTick
        | regRead => simp [Instr.opcode] at hi
  · obtain ⟨r, h⟩ := exec_pure hi s
    exact ⟨_, h s (.refl s), sameRegisters_respond s r⟩

end Sys2Proof.Machine
end

section
/-! What the decoder answers, as an equivalence per answer, and the operands a command carries: the
statements of spec/30_encoding.md about decoding and encoding. -/

namespace Sys2Proof

/-! ## The operation a row assembles from a command -/

@[simp] theorem Opcode.opcode_operands (o : Opcode) (w : Word) (vin : List Byte) :
    (o.operands w vin).opcode = o := by
  cases o <;> rfl

/-- With a VIN of `L(OPC)` bytes the assembled operation is well formed (R82). -/
theorem Opcode.wellFormed_operands {o : Opcode} {vin : List Byte} (h : vin.length = o.vinLen) (w : Word) :
    (o.operands w vin).wellFormed = true := by
  cases o with
  | fecEncode | fecSyndrome | txAssemble | rxValidate => exact beq_iff_eq.mpr h
  | nop | crcInit | crcByte | crcRead | rxPush | arbTick | chSample | regRead => rfl

/-- The VIN is a vector operation's operand, and empty for every other operation (R82). -/
theorem Opcode.encodeVin_operands {o : Opcode} {vin : List Byte} (h : vin.length = o.vinLen) (w : Word) :
    encodeVin (o.operands w vin) = vin := by
  cases o with
  | fecEncode | fecSyndrome | txAssemble | rxValidate => rfl
  | nop | crcInit | crcByte | crcRead | rxPush | arbTick | chSample | regRead =>
    exact (List.length_eq_zero_iff.mp h).symm

/-- A word with the row's OPC and its reserved fields 0 holds nothing but the operands (R81, R83). -/
theorem Opcode.encodeWord_operands {o : Opcode} {w : Word} (hopc : opcField w = o.byte)
    (hres : o.format.reservedBits w = 0) (vin : List Byte) : encodeWord (o.operands w vin) = w := by
  have hw := packWord_fields w
  rw [hopc] at hw
  cases o with
  | nop | crcInit | crcRead | arbTick | fecEncode | fecSyndrome | txAssemble | rxValidate =>
    obtain ⟨ha, himm⟩ := fields_of_low24 hres
    rwa [ha, himm] at hw
  | crcByte | rxPush =>
    obtain ⟨ha, himm⟩ := fields_of_mid16 hres
    rwa [ha, himm] at hw
  | regRead => rwa [fields_of_low16 hres] at hw
  | chSample => exact hw

theorem Opcode.byte_injective {o o' : Opcode} (h : o.byte = o'.byte) : o = o' := by
  have ho := o.ofByte?_byte
  rw [h, o'.ofByte?_byte] at ho
  exact (Option.some.inj ho).symm

/-- The match and mask columns of R84 say that the OPC is the row's and the reserved fields are 0. -/
theorem Opcode.and_maskBits_eq_matchBits {o : Opcode} {w : Word} :
    w &&& o.maskBits = o.matchBits ↔ opcField w = o.byte ∧ o.format.reservedBits w = 0 := by
  constructor
  · intro h
    constructor
    · rw [← o.opcField_and_maskBits, h, Opcode.matchBits, opcField_packWord]
    · rw [← o.reservedBits_and_maskBits, h, o.reservedBits_matchBits]
  · rintro ⟨hopc, hres⟩
    obtain ⟨h, -⟩ := encode_matches_row (o.operands w [])
    rwa [encodeWord_operands hopc hres, opcode_operands] at h

/-! ## Each answer of the decoder (R85) -/

section
variable {w : Word} {vin : List Byte}

theorem decode_eq_illOpcode :
    decode w vin = .illegal .illOpcode ↔ ∀ o : Opcode, opcField w ≠ o.byte := by
  constructor
  · intro h o ho
    rw [decode_of_opcode ho] at h
    split_ifs at h <;> cases h
  · intro h
    obtain ⟨hd, -⟩ | ⟨o, ho, -⟩ := decode_cases w vin
    · exact hd
    · exact absurd ho (h o)

theorem decode_eq_illReserved :
    decode w vin = .illegal .illReserved ↔
      ∃ o : Opcode, opcField w = o.byte ∧ o.format.reservedBits w ≠ 0 := by
  constructor
  · intro h
    obtain ⟨hd, -⟩ | ⟨o, ho, ⟨-, hr⟩ | ⟨hd, -⟩ | ⟨hd, -⟩⟩ := decode_cases w vin
    case inr.inl => exact ⟨o, ho, hr⟩
    all_goals cases hd.symm.trans h
  · rintro ⟨o, ho, hr⟩
    rw [decode_of_opcode ho, if_pos hr]

theorem decode_eq_illVin :
    decode w vin = .illegal .illVin ↔
      ∃ o : Opcode, w &&& o.maskBits = o.matchBits ∧ vin.length ≠ o.vinLen := by
  simp only [Opcode.and_maskBits_eq_matchBits]
  constructor
  · intro h
    obtain ⟨hd, -⟩ | ⟨o, ho, ⟨hd, -⟩ | ⟨-, hr, hv⟩ | ⟨hd, -⟩⟩ := decode_cases w vin
    case inr.inr.inl => exact ⟨o, ⟨ho, hr⟩, hv⟩
    all_goals cases hd.symm.trans h
  · rintro ⟨o, ⟨ho, hr⟩, hv⟩
    rw [decode_of_opcode ho, if_neg (not_not.mpr hr), if_pos hv]

theorem decode_eq_instr {i : Instr} :
    decode w vin = .instr i ↔
      ∃ o : Opcode, w &&& o.maskBits = o.matchBits ∧ vin.length = o.vinLen ∧ o.operands w vin = i := by
  constructor
  · intro h
    obtain ⟨hd, -⟩ | ⟨o, ho, ⟨hd, -⟩ | ⟨hd, -⟩ | ⟨hd, hr, hv⟩⟩ := decode_cases w vin
    case inr.inr.inr =>
      exact ⟨o, Opcode.and_maskBits_eq_matchBits.mpr ⟨ho, hr⟩, hv,
        Decoded.instr.inj (hd.symm.trans h)⟩
    all_goals cases hd.symm.trans h
  · rintro ⟨o, hw, hv, rfl⟩
    exact decode_of_row hw hv

/-- REG.READ's own cause is raised when it runs, never by the decoder (R85). -/
theorem decode_ne_illReg : decode w vin ≠ .illegal .illReg := by
  intro h
  obtain ⟨hd, -⟩ | ⟨o, -, ⟨hd, -⟩ | ⟨hd, -⟩ | ⟨hd, -⟩⟩ := decode_cases w vin <;>
    cases hd.symm.trans h

/-- A command that decodes is the encoding of a well-formed operation. -/
theorem encode_of_decode {i : Instr} (h : decode w vin = .instr i) :
    i.wellFormed = true ∧ encode i = (w, vin) := by
  obtain ⟨o, hw, hv, rfl⟩ := decode_eq_instr.mp h
  obtain ⟨hopc, hres⟩ := Opcode.and_maskBits_eq_matchBits.mp hw
  exact ⟨o.wellFormed_operands hv w,
    Prod.ext (o.encodeWord_operands hopc hres vin) (o.encodeVin_operands hv w)⟩

end

/-! ## The illegal opcode values (R86) -/

theorem opcField_toNat (w : Word) : (opcField w).toNat = w.toNat / 2 ^ 24 := by
  rw [opcField, BitVec.extractLsb'_toNat, Nat.shiftRight_eq_div_pow, Nat.mod_eq_of_lt (by omega)]

/-- The six ranges between and behind the rows of R84. -/
theorem Opcode.ofByte?_eq_none_iff_ranges (b : Byte) : Opcode.ofByte? b = none ↔
    (0x04 ≤ b.toNat ∧ b.toNat ≤ 0x0F) ∨ (0x12 ≤ b.toNat ∧ b.toNat ≤ 0x1F) ∨
    (0x21 ≤ b.toNat ∧ b.toNat ≤ 0x2F) ∨ (0x32 ≤ b.toNat ∧ b.toNat ≤ 0x3F) ∨
    (0x42 ≤ b.toNat ∧ b.toNat ≤ 0x4F) ∨ (0x51 ≤ b.toNat ∧ b.toNat ≤ 0xFF) := by
  revert b
  decide +revert

/-! ## The obligations -/

/-- Settles O2: the command lies in its operation's row (`encode_matches_row`), and assembling its operands
gives the operation (`operands_encode`). -/
theorem decodeOfEncode : Obligations.DecodeOfEncode := fun _ hi => decode_encode hi

/-- Settles O3: what decodes lies in a row, so its fields hold the operands and nothing else. -/
theorem encodeOfDecode : Obligations.EncodeOfDecode := fun _ _ _ h => encode_of_decode h

/-- Settles O4: a row matches when its OPC does and its reserved fields are 0, and no two rows have the same
OPC. -/
theorem decodeChecksInOrder : Obligations.DecodeChecksInOrder := by
  intro w vin
  refine ⟨decode_eq_illOpcode, decode_eq_illReserved.trans ?_, decode_eq_illVin, ?_⟩
  · simp only [ne_eq, Opcode.and_maskBits_eq_matchBits]
    constructor
    · rintro ⟨o, ho, hr⟩
      refine ⟨⟨o, ho⟩, fun o' ⟨ho', hr'⟩ => hr ?_⟩
      rwa [Opcode.byte_injective (ho.symm.trans ho')]
    · rintro ⟨⟨o, ho⟩, hn⟩
      exact ⟨o, ho, fun hr => hn o ⟨ho, hr⟩⟩
  · constructor
    · rintro ⟨i, hi⟩
      obtain ⟨o, hw, hv, -⟩ := decode_eq_instr.mp hi
      exact ⟨o, hw, hv⟩
    · rintro ⟨o, hw, hv⟩
      exact ⟨_, decode_of_row hw hv⟩

/-- Settles O5: the opcode map has no row in the six ranges and a row everywhere else. -/
theorem illegalOpcodeRanges : Obligations.IllegalOpcodeRanges := by
  intro w vin
  rw [decode_eq_illOpcode, ← Opcode.ofByte?_eq_none, Opcode.ofByte?_eq_none_iff_ranges, opcField_toNat]

/-- Settles O1: each word and VIN is the encoding of its operation. -/
theorem specWordsDecode : Obligations.SpecWordsDecode :=
  ⟨decode_encode (i := .nop) rfl, decode_encode (i := .crcInit) rfl,
    decode_encode (i := .crcByte 0x31) rfl, decode_encode (i := .crcRead) rfl,
    decode_encode (i := .fecEncode (List.replicate 50 7)) rfl,
    decode_encode (i := .fecSyndrome (List.replicate 58 7)) rfl,
    decode_encode (i := .txAssemble (List.replicate 50 7)) rfl, decode_encode (i := .rxPush 0xFE) rfl,
    decode_encode (i := .rxValidate (List.replicate 64 7)) rfl, decode_encode (i := .arbTick) rfl,
    decode_encode (i := .chSample 3 1500) rfl, decode_encode (i := .regRead 0x1B) rfl⟩

end Sys2Proof
end

section
/-! The rules' own loops compute what the model's functions compute: parity (R130), the flag mask (R133) and
the validator (R175). -/

namespace Sys2Proof.Machine

/-! ## Bytes of a list (R9) -/

theorem byteAt_eq_getElem {l : List Byte} {i : Nat} (h : i < l.length) : byteAt l i = l[i] := by
  simp [byteAt, h]

/-- Byte sequences of one length with the same bytes are the same. -/
theorem eq_of_byteAt_eq {a b : List Byte} (hl : a.length = b.length)
    (h : ∀ i < a.length, byteAt a i = byteAt b i) : a = b := by
  refine List.ext_getElem hl fun i ha hb => ?_
  simpa [byteAt, ha, hb] using h i ha

/-- One byte of a sequence after a write of another or the same byte. -/
theorem byteAt_set {p : List Byte} {j : Nat} (hj : j < p.length) (x : Byte) (k : Nat) :
    byteAt (p.set j x) k = if j = k then x else byteAt p k := by
  simp only [byteAt, List.getD_eq_getElem?_getD, List.getElem?_set, hj]
  split <;> simp

/-! ## The accumulation loop of R130 -/

/-- The body of R130's loop. -/
def parityStep (d p : List Byte) (i : Nat) : List Byte := p.set (i / 8) (byteAt p (i / 8) ^^^ byteAt d i)

theorem foldl_parityStep_length (d : List Byte) (idx : List Nat) (p : List Byte) :
    (idx.foldl (parityStep d) p).length = p.length := by
  induction idx generalizing p with
  | nil => rfl
  | cons i idx ih => rw [List.foldl_cons, ih, parityStep, List.length_set]

/-- The loop over any positions adds to slot `k` the XOR of the data bytes whose group is `k`. -/
theorem byteAt_foldl_parityStep (d : List Byte) (k : Nat) (idx : List Nat) (p : List Byte)
    (h : ∀ i ∈ idx, i / 8 < p.length) :
    byteAt (idx.foldl (parityStep d) p) k =
      byteAt p k ^^^ xorOver (idx.filter fun i => i / 8 == k) d := by
  induction idx generalizing p with
  | nil => simp
  | cons i idx ih =>
    obtain ⟨hi, hidx⟩ := List.forall_mem_cons.mp h
    rw [List.foldl_cons, ih _ (by simpa [parityStep] using hidx), parityStep, byteAt_set hi]
    by_cases hk : i / 8 = k
    · simp [hk, xorOver_cons, BitVec.xor_assoc]
    · simp [hk]

theorem parity_eq_parityLoop (d : List Byte) : parity d = parityLoop d := by
  have hlen : (parityLoop d).length = 8 := foldl_parityStep_length d _ _
  refine eq_of_byteAt_eq (by rw [parity_length, hlen]) fun k hk => ?_
  rw [parity_length] at hk
  have hloop := byteAt_foldl_parityStep d k (List.range 50) (List.replicate 8 0)
    fun i hi => by
      rw [List.mem_range] at hi
      rw [List.length_replicate]
      omega
  have hslot : byteAt (List.replicate 8 0) k = 0 := List.getD_replicate 0 hk
  rw [hslot] at hloop
  rw [byteAt_parity hk]
  exact (hloop.trans BitVec.zero_xor).symm

/-! ## The flag mask of R133 -/

/-- The mask of the first `n` groups. -/
def flagMaskBelow (d : List Byte) (n : Nat) : Byte :=
  (List.range n).foldl (fun m k => m + (if byteAt d k ≠ 0 then 1#8 <<< k else 0)) 0

theorem flagMaskBelow_succ (d : List Byte) (n : Nat) : flagMaskBelow d (n + 1) =
    flagMaskBelow d n + if byteAt d n ≠ 0 then 1#8 <<< n else 0 := by
  simp [flagMaskBelow, List.range_succ]

/-- The sum sets no bit twice, so each bit is the flag of its group. -/
theorem getLsbD_flagMaskBelow (d : List Byte) {n : Nat} (hn : n ≤ 8) (k : Nat) :
    (flagMaskBelow d n).getLsbD k = (decide (k < n) && byteAt d k != 0) := by
  induction n generalizing k with
  | zero => simp [flagMaskBelow]
  | succ n ih =>
    have hlt : k ≠ n → (k < n + 1 ↔ k < n) := by omega
    rw [flagMaskBelow_succ]
    by_cases hd : byteAt d n = 0
    · rw [if_neg (not_not.mpr hd), add_zero, ih (by omega)]
      by_cases hk : k = n
      · simp [hk, hd]
      · simp [hlt hk]
    · have hdisj : flagMaskBelow d n &&& BitVec.twoPow 8 n = 0#8 := by
        simp [BitVec.and_twoPow, ih (show n ≤ 8 by omega)]
      rw [if_pos hd, ← BitVec.twoPow_eq, BitVec.add_eq_or_of_and_eq_zero _ _ hdisj, BitVec.getLsbD_or,
        BitVec.getLsbD_twoPow, ih (by omega)]
      by_cases hk : k = n
      · simp only [hk, bne_iff_ne.mpr hd, show n < 8 by omega]
        simp
      · simp [hlt hk, Ne.symm hk]

theorem getLsbD_flagMask (d : List Byte) {k : Nat} (hk : k < 8) :
    (flagMask d).getLsbD k = (byteAt d k != 0) := by
  have h := getLsbD_flagMaskBelow d (Nat.le_refl 8) k
  rwa [decide_eq_true hk, Bool.true_and] at h

/-! ## The nested loops of R175 -/

theorem tryPositions_eq_find? (p : List Byte) (want : Half) (e : Byte) (is : List Nat) :
    tryPositions p want e is = (is.map (trialAt p e)).find? fun q => crc16 q == want := by
  induction is with
  | nil => rfl
  | cons i is ih =>
    by_cases h : crc16 (trialAt p e i) = want
    · rw [List.map_cons, List.find?_cons_of_pos (by simpa using h)]
      exact if_pos h
    · rw [List.map_cons, List.find?_cons_of_neg (by simpa using h), ← ih]
      exact if_neg h

theorem tryGroups_eq_find? (p : List Byte) (want : Half) {ks : List Nat} (h : ∀ k ∈ ks, k < 8) :
    tryGroups p want (syndrome p) ks = (ks.flatMap (groupTrials p)).find? fun q => crc16 q == want := by
  induction ks with
  | nil => rfl
  | cons k ks ih =>
    obtain ⟨hk, hks⟩ := List.forall_mem_cons.mp h
    rw [tryGroups, List.flatMap_cons, List.find?_append, byteAt_syndrome hk, ih hks,
      groupTrials]
    by_cases hd : discrepancy p k = 0
    · rw [if_pos hd, if_pos hd]
      rfl
    · have hpositions : tryPositions p want (discrepancy p k)
          ((List.range 50).filter fun i => i / 8 == k) =
          ((group k).map (trialAt p (discrepancy p k))).find? fun q => crc16 q == want :=
        tryPositions_eq_find? p want _ (group k)
      rw [if_neg hd, if_neg hd, hpositions]
      cases ((group k).map (trialAt p (discrepancy p k))).find? fun q => crc16 q == want <;> rfl

theorem validate_eq_validateLoop (f : List Byte) : validate f = validateLoop f := by
  have hgroups := tryGroups_eq_find? (payloadSpan f) (transmittedCrc f) (ks := List.range 8) (by simp)
  have hloops : tryGroups ((f.drop 4).take 58) (le16 (byteAt f 62) (byteAt f 63))
      (syndrome ((f.drop 4).take 58)) [0, 1, 2, 3, 4, 5, 6, 7] =
      (trials (payloadSpan f)).find? fun q => crc16 q == transmittedCrc f := hgroups
  simp only [validate, validateLoop, hloops]
  rfl

end Sys2Proof.Machine
end

section
/-! What an operation answers: a vector operation by the length of its VIN (spec/30_encoding.md R82), the
expansion of CRC.BLOCK (R89), and which operations answer ILLEGAL (spec/60_exceptions.md R300). -/

namespace Sys2Proof.Machine

/-! ## Vector operations, by the length of their VIN (R82) -/

section
variable {v : List Byte} (s : State)

theorem exec_fecEncode_of_length (h : v.length = 50) :
    exec (.fecEncode v) s = .next (s.respond ⟨.ok, 0, parity v⟩) :=
  congrArg Host.Outcome.next (withVin_of_length h _ s)

theorem exec_fecSyndrome_of_length (h : v.length = 58) : exec (.fecSyndrome v) s =
    .next (s.respond ⟨.ok, zext16 (flagMask (syndrome v)), syndrome v⟩) :=
  congrArg Host.Outcome.next (withVin_of_length h _ s)

theorem exec_txAssemble_of_length (h : v.length = 50) : exec (.txAssemble v) s =
    .next (s.respond ⟨.ok, crc16 (txPayload v), txFrame v⟩) :=
  congrArg Host.Outcome.next (withVin_of_length h _ s)

theorem exec_rxValidate_of_length (h : v.length = 64) : exec (.rxValidate v) s =
    .next (s.respond ⟨.ok, (validate v).1.code, (validate v).2⟩) :=
  congrArg Host.Outcome.next (withVin_of_length h _ s)

end

/-- Settles O30: the VIN length check stands in front of each effect. -/
theorem wrongVinLengthRaises : Obligations.WrongVinLengthRaises := by
  rintro s v i (⟨rfl, h⟩ | ⟨rfl, h⟩ | ⟨rfl, h⟩ | ⟨rfl, h⟩) <;>
    exact congrArg Host.Outcome.next (withVin_of_ne h _ s)

/-- Settles O29: the effect behind each length check, with the rules' own loops for `parity` and
`validate`. -/
theorem vectorOperationsComplete : Obligations.VectorOperationsComplete := by
  intro s v
  refine ⟨fun h => ?_, fun h => ⟨_, ?_, fun k hk => ?_, exec_fecSyndrome_of_length s h⟩, fun h => ?_,
    fun h => ⟨(validate v).1, (validate v).2, (validate_eq_validateLoop v).symm, ?_⟩⟩
  · rw [← parity_eq_parityLoop]
    exact exec_fecEncode_of_length s h
  · rw [zext16, BitVec.toNat_setWidth_of_le (by decide)]
    exact BitVec.isLt _
  · rw [zext16, BitVec.getLsbD_setWidth, decide_eq_true (by omega), Bool.true_and, getLsbD_flagMask _ hk]
  · rw [← parity_eq_parityLoop]
    exact exec_txAssemble_of_length s h
  · rw [exec_rxValidate_of_length s h]
    cases (validate v).1 <;> rfl

/-! ## CRC.BLOCK (R89, R111) -/

theorem crcFrom_append_singleton (acc : Half) (bytes : List Byte) (b : Byte) :
    crcFrom acc (bytes ++ [b]) = crcStep (crcFrom acc bytes) b := crcFrom_append acc bytes [b]

/-- A run of CRC.BYTE folds its bytes into the accumulator, answers once a byte, and that is all. -/
theorem execAll_crcByte (bytes : List Byte) (s : State) :
    ∃ rs : List Response, rs.length = bytes.length ∧ execAll (bytes.map .crcByte) s =
      .next { s with crcAcc := crcFrom s.crcAcc bytes, responses := s.responses ++ rs } := by
  induction bytes generalizing s with
  | nil => exact ⟨[], rfl, by simp [execAll]⟩
  | cons b bytes ih =>
    obtain ⟨rs, hlen, e⟩ := ih ((s.setCrcAcc (crcStep s.crcAcc b)).respond ⟨.ok, crcStep s.crcAcc b, []⟩)
    refine ⟨⟨.ok, crcStep s.crcAcc b, []⟩ :: rs, by simp [hlen], ?_⟩
    rw [List.map_cons, execAll_cons (exec_crcByte b s), e]
    simp [State.setCrcAcc, State.respond]

/-- Settles O22: CRC.INIT sets the start value, the bytes are folded in, and CRC.READ answers. -/
theorem crcBlockComputesCrc16 : Obligations.CrcBlockComputesCrc16 := by
  refine ⟨rfl, fun bytes b => crcFrom_append_singleton crcInit bytes b, fun bytes s => ?_⟩
  obtain ⟨rs, hlen, e⟩ := execAll_crcByte bytes ((s.setCrcAcc crcInit).respond ⟨.ok, crcInit, []⟩)
  refine ⟨_, ⟨.ok, crcInit, []⟩ :: rs, ?_, by simp [hlen], rfl⟩
  rw [Pseudo.expand, List.cons_append, execAll_cons (exec_crcInit s), execAll_append e,
    execAll_cons (exec_crcRead _)]
  simp [execAll, State.setCrcAcc, State.respond, crc16_eq_crcFrom]

/-! ## An operation that answers ILLEGAL (R300) -/

/-- A well-formed operation answers OK, unless it is REG.READ of a reserved number (R211). -/
theorem exec_ok_or_reserved {i : Instr} {s t : State} (hi : i.wellFormed = true) (h : exec i s = .next t) :
    (∃ r, t.responses = s.responses ++ [r] ∧ r.status = .ok) ∨
      ∃ reg, i = .regRead reg ∧ regOfNumber reg = none := by
  cases i with
  | nop | crcInit | crcByte | crcRead => cases h; exact .inl ⟨_, rfl, rfl⟩
  | fecEncode d =>
    cases (exec_fecEncode_of_length s (beq_iff_eq.mp hi)).symm.trans h
    exact .inl ⟨_, rfl, rfl⟩
  | fecSyndrome p =>
    cases (exec_fecSyndrome_of_length s (beq_iff_eq.mp hi)).symm.trans h
    exact .inl ⟨_, rfl, rfl⟩
  | txAssemble d =>
    cases (exec_txAssemble_of_length s (beq_iff_eq.mp hi)).symm.trans h
    exact .inl ⟨_, rfl, rfl⟩
  | rxValidate f =>
    cases (exec_rxValidate_of_length s (beq_iff_eq.mp hi)).symm.trans h
    exact .inl ⟨_, rfl, rfl⟩
  | rxPush b =>
    cases h
    obtain ⟨⟨r, hok, hr⟩, -⟩ := rxPush_common b s
    exact .inl ⟨r, hr, hok⟩
  | arbTick =>
    obtain ⟨-, e⟩ | ⟨-, e⟩ := exec_arbTick s <;> cases e.symm.trans h <;> exact .inl ⟨_, rfl, rfl⟩
  | chSample ch raw =>
    obtain ⟨_, e⟩ | ⟨-, e⟩ := exec_chSample ch raw s <;> cases e.symm.trans h <;>
      exact .inl ⟨_, rfl, rfl⟩
  | regRead reg =>
    obtain ⟨r, -, e⟩ | ⟨hnone, -⟩ := exec_regRead reg s
    · cases e.symm.trans h
      exact .inl ⟨_, rfl, rfl⟩
    · exact .inr ⟨reg, rfl, hnone⟩

theorem sameRegisters_taken_respond (s : State) (rest : List HostInput) (r : Response) :
    SameRegisters s (State.respond r { s with inputs := rest }) :=
  ⟨rfl, rfl, rfl, rfl, rfl, rfl, rfl, rfl, rfl, rfl, rfl⟩

/-- Settles O12: the ILLEGAL answer is the decoder's rejection or REG.READ's, since a decoded operation is
well formed and answers OK otherwise. -/
theorem illegalCommandWritesNothing : Obligations.IllegalCommandWritesNothing := by
  intro s t w vin rest r hin hst hr hill
  cases hd : decode w vin with
  | illegal c =>
    cases (step_of_decode_illegal hin hd).symm.trans hst
    obtain rfl := List.singleton_inj.mp (List.append_cancel_left hr)
    refine ⟨sameRegisters_taken_respond s rest _, rfl, ?_⟩
    cases c with
    | illOpcode => exact .inl ⟨rfl, rfl⟩
    | illReserved => exact .inr (.inl ⟨rfl, rfl⟩)
    | illVin => exact .inr (.inr (.inl ⟨rfl, rfl⟩))
    | illReg => exact absurd hd decode_ne_illReg
  | instr i =>
    rw [step_of_decode_instr hin hd] at hst
    obtain ⟨hwf, -⟩ := encode_of_decode hd
    obtain ⟨r', hr', hok⟩ | ⟨reg, rfl, hnone⟩ := exec_ok_or_reserved hwf hst
    · obtain rfl := List.singleton_inj.mp (List.append_cancel_left (hr'.symm.trans hr))
      cases hok.symm.trans hill
    · cases (exec_regRead_of_none hnone _).symm.trans hst
      obtain rfl := List.singleton_inj.mp (List.append_cancel_left hr)
      refine ⟨sameRegisters_taken_respond s rest _, rfl, .inr (.inr (.inr ⟨reg, rfl, rfl, ?_⟩))⟩
      exact (regOfNumber_none.mp hnone).imp_right And.left

end Sys2Proof.Machine
end

section
/-! Frames and payload layouts (spec/30_encoding.md R70 to R76): fields read back from the bytes of a list,
the layout of an assembled frame, and what pushing a well-formed frame does. -/

namespace Sys2Proof.Machine

/-! ## Reading bytes and fields of a list (R9, R75) -/

theorem byteAt_append_right (l l' : List Byte) (i : Nat) : byteAt (l ++ l') (l.length + i) = byteAt l' i := by
  rw [byteAt, List.getD_append_right _ _ _ _ (Nat.le_add_right _ _), Nat.add_sub_cancel_left]
  rfl

theorem field16_append_right (l l' : List Byte) (i : Nat) :
    field16 (l ++ l') (l.length + i) = field16 l' i := by
  simp only [field16, Nat.add_assoc, byteAt_append_right]

theorem field32_append_right (l l' : List Byte) (i : Nat) :
    field32 (l ++ l') (l.length + i) = field32 l' i := by
  simp only [field32, Nat.add_assoc, byteAt_append_right]

@[simp] theorem le16Bytes_length (v : Half) : (le16Bytes v).length = 2 := rfl

@[simp] theorem le32Bytes_length (v : Word) : (le32Bytes v).length = 4 := rfl

theorem le16_loByte_hiByte (v : Half) : le16 (loByte v) (hiByte v) = v := by
  ext i hi
  simp only [le16, zext16, loByte, hiByte]
  interval_cases i <;> simp

theorem le32_extract (v : Word) :
    le32 (v.extractLsb' 0 8) (v.extractLsb' 8 8) (v.extractLsb' 16 8) (v.extractLsb' 24 8) = v := by
  ext i hi
  simp only [le32]
  interval_cases i <;> simp

/-- The 16-bit fields of a list of values in wire order, read back at even offsets (R54, R75). -/
theorem field16_flatMap_le16Bytes {vs : List Half} {j : Nat} (h : j < vs.length) (rest : List Byte) :
    field16 (vs.flatMap le16Bytes ++ rest) (2 * j) = vs[j] := by
  induction vs generalizing j with
  | nil => simp at h
  | cons v vs ih =>
    rw [List.flatMap_cons, List.append_assoc]
    cases j with
    | zero => exact le16_loByte_hiByte v
    | succ j =>
      have hj : j < vs.length := by simpa using h
      have ho : 2 * (j + 1) = (le16Bytes v).length + 2 * j := by rw [le16Bytes_length]; omega
      rw [ho, field16_append_right, ih hj, List.getElem_cons_succ]

/-- The 32-bit fields of a list of values in wire order, read back at offsets divisible by 4 (R54, R75). -/
theorem field32_flatMap_le32Bytes {vs : List Word} {j : Nat} (h : j < vs.length) (rest : List Byte) :
    field32 (vs.flatMap le32Bytes ++ rest) (4 * j) = vs[j] := by
  induction vs generalizing j with
  | nil => simp at h
  | cons v vs ih =>
    rw [List.flatMap_cons, List.append_assoc]
    cases j with
    | zero => exact le32_extract v
    | succ j =>
      have hj : j < vs.length := by simpa using h
      have ho : 4 * (j + 1) = (le32Bytes v).length + 4 * j := by rw [le32Bytes_length]; omega
      rw [ho, field32_append_right, ih hj, List.getElem_cons_succ]

/-! ## A frame around a payload (R70, R71, R101) -/

/-- The magic, a payload, and its checksum, low byte first: the layout of R70. -/
def frameOf (p : List Byte) : List Byte := magic ++ p ++ le16Bytes (crc16 p)

theorem take_four_frameOf (p : List Byte) : (frameOf p).take 4 = magic := rfl

section
variable {p : List Byte} (hp : p.length = 58)
include hp

/-- The placeholder bytes are those the checksum overwrites. -/
theorem setChecksum_assemble (b : Byte) : setChecksum (assemble p b) (crc16 p) = frameOf p := by
  simp [setChecksum, assemble, frameOf, le16Bytes, magic, hp]

theorem frameOf_length : (frameOf p).length = 64 := by simp [frameOf, magic, le16Bytes, hp]

theorem payloadSpan_frameOf : payloadSpan (frameOf p) = p := by
  simp [payloadSpan, payloadLen, frameOf, magic, hp]

/-- The checksum stands behind the payload. -/
theorem byteAt_frameOf_checksum (i : Nat) :
    byteAt (frameOf p) (62 + i) = byteAt (le16Bytes (crc16 p)) i := by
  have hl : 62 = (magic ++ p).length := by simp [magic, hp]
  rw [hl, frameOf, byteAt_append_right]

theorem transmittedCrc_frameOf : transmittedCrc (frameOf p) = crc16 p := by
  rw [transmittedCrc, field16, byteAt_frameOf_checksum hp 0, byteAt_frameOf_checksum hp 1]
  exact le16_loByte_hiByte _

theorem wellFormedFrame_frameOf : wellFormedFrame (frameOf p) = true := by
  rw [wellFormedFrame, frameOf_length hp, payloadSpan_frameOf hp, transmittedCrc_frameOf hp]
  simp [take_four_frameOf, frameLen]

end

theorem txPayload_length {d : List Byte} (h : d.length = 50) : (txPayload d).length = 58 := by
  simp [txPayload, h]

theorem txFrame_eq_frameOf {d : List Byte} (h : d.length = 50) : txFrame d = frameOf (txPayload d) :=
  setChecksum_assemble (txPayload_length h) 0

theorem wellFormedFrame_iff {f : List Byte} : wellFormedFrame f = true ↔
    f.length = 64 ∧ f.take 4 = magic ∧ crc16 (payloadSpan f) = transmittedCrc f := by
  simp [wellFormedFrame, frameLen, and_assoc]

theorem validate_of_wellFormedFrame {f : List Byte} (h : wellFormedFrame f = true) :
    validate f = (.valid, f) := by
  obtain ⟨-, -, hcrc⟩ := wellFormedFrame_iff.mp h
  rw [validate, if_pos hcrc]

/-! ## Pushing a frame from cursor 0 (R151, R152) -/

/-- State `s` after `n` bytes have been accepted from cursor 0, RXBUF then holding `v`. -/
def receiving (s : State) (n : Nat) (v : Vector Byte 64) : State :=
  { s with
    syncCursor := Fin.ofNat 64 n
    rxbuf := v
    responses := s.responses ++ List.replicate n ⟨.ok, 0, []⟩ }

theorem receiving_zero {s : State} (h : s.syncCursor.val = 0) : receiving s 0 s.rxbuf = s := by
  cases s
  simpa [receiving, Fin.ext_iff] using h.symm

theorem receiving_cursor {n : Nat} (h : n < 64) (s : State) (v : Vector Byte 64) :
    (receiving s n v).syncCursor.val = n := Nat.mod_eq_of_lt h

/-- A store behind `n` bytes that agree with `f` makes `n + 1` bytes agree. -/
theorem take_succ_set {α : Type} {l f : List α} {n : Nat} (hl : n < l.length) (hf : n < f.length)
    (h : l.take n = f.take n) : (l.set n f[n]).take (n + 1) = f.take (n + 1) := by
  rw [List.take_succ_eq_append_getElem (by simpa using hl), List.take_succ_eq_append_getElem hf,
    List.take_set_of_le (Nat.le_refl n), h, List.getElem_set_self]

section
variable {f : List Byte} (hlen : f.length = 64) (hmagic : f.take 4 = magic)
include hlen hmagic

/-- The next byte of a frame that begins with the magic is accepted. -/
theorem rxPush_receiving {n : Nat} (hn : n < 63) (s : State) (v : Vector Byte 64) :
    rxPush f[n] (receiving s n v) = receiving s (n + 1) (v.set n f[n]) := by
  have hc : (receiving s n v).syncCursor.val = n := receiving_cursor (by omega) s v
  have hb : n < 4 → f[n] = byteAt magic n := fun h4 => by
    rw [← hmagic, byteAt_eq_getElem (by simp; omega), List.getElem_take]
  rw [rxPush_of_accepted (by omega) (by rwa [hc])]
  simp only [acceptByte, State.storeRx, hc]
  simp [receiving, State.setCursor, State.respond, RxEvent.code, List.replicate_succ']

/-- Fewer than 64 bytes of a frame that begins with the magic, pushed from cursor 0, are all accepted and
stand in RXBUF. -/
theorem execAll_rxPush_take {s : State} (hs : s.syncCursor.val = 0) {n : Nat} (hn : n < 64) :
    ∃ v : Vector Byte 64, v.toList.take n = f.take n ∧
      execAll ((f.take n).map .rxPush) s = .next (receiving s n v) := by
  induction n with
  | zero => exact ⟨s.rxbuf, rfl, congrArg Host.Outcome.next (receiving_zero hs).symm⟩
  | succ n ih =>
    obtain ⟨v, hv, e⟩ := ih (by omega)
    refine ⟨v.set n f[n], ?_, ?_⟩
    · rw [Vector.toList_set]
      exact take_succ_set (by simp; omega) (by omega) hv
    · rw [List.take_succ_eq_append_getElem (by omega), List.map_append, execAll_append e,
        ← rxPush_receiving hlen hmagic (by omega) s v]
      exact execAll_cons (exec_rxPush _ _)

end

/-- The byte that completes a well-formed frame (R152, R171). -/
theorem completeFrame_of_wellFormedFrame {f : List Byte} {b : Byte} {s : State}
    (hf : wellFormedFrame f = true) (hb : (s.storeRx b).rxbuf.toList = f) :
    completeFrame b s = (arbApply f ((s.storeRx b).setCursor 0).countValid).respond ⟨.ok, 2, f⟩ := by
  rw [completeFrame, hb, validate_of_wellFormedFrame hf]
  rfl

/-- A well-formed frame pushed from cursor 0: every byte is accepted, the last is answered FRAME_VALID with
the frame itself, and the frame's command is applied (R152, R190). -/
theorem execAll_rxPush_wellFormedFrame {f : List Byte} {s : State} (hf : wellFormedFrame f = true)
    (hs : s.syncCursor.val = 0) : ∃ v : Vector Byte 64, v.toList = f ∧
      execAll (f.map .rxPush) s = .next { arbApply f s with
        syncCursor := 0, rxbuf := v, cntValid := s.cntValid + 1
        responses := s.responses ++ List.replicate 63 ⟨.ok, 0, []⟩ ++ [⟨.ok, 2, f⟩] } := by
  obtain ⟨hlen, hmagic, -⟩ := wellFormedFrame_iff.mp hf
  obtain ⟨v, hv, e⟩ := execAll_rxPush_take hlen hmagic hs (n := 63) (by decide)
  have hc : (receiving s 63 v).syncCursor.val = 63 := receiving_cursor (by decide) s v
  have hlast : f.take 63 ++ [f[63]] = f := by
    rw [← List.take_succ_eq_append_getElem (by omega), List.take_of_length_le (by omega)]
  have hrx : ((receiving s 63 v).storeRx f[63]).rxbuf.toList = f := by
    have h := take_succ_set (by simp) (by omega) hv
    rw [List.take_of_length_le (by simp), List.take_of_length_le (by omega)] at h
    rw [storeRx_toList, hc]
    exact h
  have hpush : exec (.rxPush f[63]) (receiving s 63 v) = .next _ :=
    congrArg Host.Outcome.next ((rxPush_of_completed hc).trans (completeFrame_of_wellFormedFrame hf hrx))
  refine ⟨_, hrx, ?_⟩
  calc execAll (f.map .rxPush) s
      = execAll ((f.take 63).map .rxPush ++ [.rxPush f[63]]) s := by
        rw [← List.map_singleton, ← List.map_append, hlast]
    _ = _ := (execAll_append e).trans (execAll_cons hpush)

/-! ## Telemetry and command payloads (R74, R76) -/

theorem Telemetry.pack_length (t : Telemetry) : t.pack.length = 50 := by
  simp [Telemetry.pack]

theorem Telemetry.field32_pack (t : Telemetry) {j : Nat} (h : j < (t.acc.toList ++ t.gyro.toList).length) :
    field32 t.pack (4 * j) = (t.acc.toList ++ t.gyro.toList)[j] := field32_flatMap_le32Bytes h _

theorem Telemetry.field16_pack (t : Telemetry) {j : Nat}
    (h : j < (t.att.toList ++ t.rc.toList ++ [t.rssi, t.alt]).length) :
    field16 t.pack (24 + 2 * j) = (t.att.toList ++ t.rc.toList ++ [t.rssi, t.alt])[j] := by
  have hl : 24 = ((t.acc.toList ++ t.gyro.toList).flatMap le32Bytes).length := by simp
  rw [hl, Telemetry.pack, field16_append_right]
  simpa using field16_flatMap_le16Bytes h []

/-- The offsets of the table of R74 are those of the fields in their order. -/
theorem Telemetry.unpack_pack (t : Telemetry) : Telemetry.unpack t.pack = t := by
  have acc (j : Fin 3) : field32 t.pack (4 * j.val) = t.acc[j] := by
    rw [t.field32_pack (by simp; omega), List.getElem_append_left (by simp)]
    simp
  have gyro (j : Fin 3) : field32 t.pack (12 + 4 * j.val) = t.gyro[j] := by
    rw [show 12 + 4 * j.val = 4 * (3 + j.val) by omega, t.field32_pack (by simp; omega)]
    simp
  have att (j : Fin 3) : field16 t.pack (24 + 2 * j.val) = t.att[j] := by
    rw [t.field16_pack (by simp; omega), List.getElem_append_left (by simp; omega),
      List.getElem_append_left (by simp)]
    simp
  have rc (j : Fin 8) : field16 t.pack (30 + 2 * j.val) = t.rc[j] := by
    rw [show 30 + 2 * j.val = 24 + 2 * (3 + j.val) by omega, t.field16_pack (by simp; omega)]
    simp
  have rssi : field16 t.pack 46 = t.rssi := (t.field16_pack (j := 11) (by simp)).trans (by simp)
  have alt : field16 t.pack 48 = t.alt := (t.field16_pack (j := 12) (by simp)).trans (by simp)
  simp only [Telemetry.unpack, acc, gyro, att, rc, rssi, alt]
  simp

theorem dataSpan_payloadSpan_txFrame {d : List Byte} (h : d.length = 50) :
    dataSpan (payloadSpan (txFrame d)) = d := by
  rw [txFrame_eq_frameOf h, payloadSpan_frameOf (txPayload_length h), dataSpan, txPayload]
  exact List.take_left' h

section
variable (v : Vector Half 8) {filler : List Byte} (hfill : filler.length = 42)
include hfill

theorem commandPayload_length : (commandPayload v filler).length = 58 := by
  simp [commandPayload, hfill]

theorem commandFrame_eq_frameOf : commandFrame v filler = frameOf (commandPayload v filler) :=
  setChecksum_assemble (commandPayload_length v hfill) 0

theorem commandValue_commandFrame (ch : Fin 8) : commandValue (commandFrame v filler) ch.val = v[ch] := by
  have hl : 4 = magic.length := rfl
  rw [commandFrame_eq_frameOf v hfill, commandValue, hl, frameOf, commandPayload, List.append_assoc,
    field16_append_right, List.append_assoc, field16_flatMap_le16Bytes (by simp)]
  simp

end

/-! ## The obligations -/

/-- Settles O31: the frame is `frameOf` the payload, and the parity bytes are the rule's loop. -/
theorem txFrameLayout : Obligations.TxFrameLayout := by
  intro d hd
  have hp := txPayload_length hd
  rw [txFrame_eq_frameOf hd]
  have hspan : ((frameOf (txPayload d)).drop 4).take 58 = txPayload d := payloadSpan_frameOf hp
  refine ⟨frameOf_length hp, take_four_frameOf _, ?_, ?_, ?_, ?_⟩
  · simp [frameOf, txPayload, magic, hd]
  · rw [← parity_eq_parityLoop]
    simp [frameOf, txPayload, magic, hd]
  · rw [hspan]
    exact byteAt_frameOf_checksum hp 0
  · rw [hspan]
    exact byteAt_frameOf_checksum hp 1

/-- Settles O51: the fields stand one behind the other in both groups of the table. -/
theorem telemetryFieldsRoundTrip : Obligations.TelemetryFieldsRoundTrip := by
  intro t
  refine ⟨t.pack_length, t.unpack_pack, ?_⟩
  rw [dataSpan_payloadSpan_txFrame t.pack_length, t.unpack_pack]

/-- Settles O52: the sender's frame is well formed, so pushing it applies the command it carries. -/
theorem commandFrameIsApplied : Obligations.CommandFrameIsApplied := by
  intro v filler s hfill hs
  have hwf : wellFormedFrame (commandFrame v filler) = true := by
    rw [commandFrame_eq_frameOf v hfill]
    exact wellFormedFrame_frameOf (commandPayload_length v hfill)
  obtain ⟨rx, -, e⟩ := execAll_rxPush_wellFormedFrame hwf hs
  refine ⟨hwf, _, e, rfl, rfl, fun ch => ?_⟩
  rw [← commandValue_commandFrame v hfill ch]
  exact arbApply_rccmd (commandFrame v filler) s ch

end Sys2Proof.Machine
end

section
/-! The round trip of an assembled frame (spec/40_frame_codec.md R102), through RX.VALIDATE and through the
synchronizer: both rest on the frame being well formed (R71). -/

namespace Sys2Proof.Machine

theorem wellFormedFrame_txFrame {d : List Byte} (h : d.length = 50) : wellFormedFrame (txFrame d) = true := by
  rw [txFrame_eq_frameOf h]
  exact wellFormedFrame_frameOf (txPayload_length h)

/-- RX.VALIDATE of a well-formed frame answers Valid and the frame unmodified (R171, R176). -/
theorem exec_rxValidate_of_wellFormedFrame {f : List Byte} (h : wellFormedFrame f = true) (s : State) :
    exec (.rxValidate f) s = .next (s.respond ⟨.ok, 2, f⟩) := by
  obtain ⟨hlen, -, -⟩ := wellFormedFrame_iff.mp h
  rw [exec_rxValidate_of_length s hlen, validate_of_wellFormedFrame h]
  rfl

/-- Settles O32: the frame TX.ASSEMBLE answers is well formed, and a well-formed frame is answered Valid by
RX.VALIDATE and FRAME_VALID by the synchronizer. -/
theorem assembledFrameRoundTrip : Obligations.AssembledFrameRoundTrip := by
  intro d s hd
  have hwf : wellFormedFrame (txFrame d) = true := wellFormedFrame_txFrame hd
  refine ⟨txFrame d, _, _, exec_txAssemble_of_length s hd, ?_, txFrame_length hd,
    exec_rxValidate_of_wellFormedFrame hwf _, ?_, fun s' hs => ?_⟩
  · simp
  · simp
  · obtain ⟨rx, -, e⟩ := execAll_rxPush_wellFormedFrame hwf hs
    exact ⟨_, e, rfl, rfl⟩

end Sys2Proof.Machine
end

section
/-! The CRC engine (spec/41_crc16.md): its step in arithmetic on numbers (R110) and as the bitwise shift
register (R115), the error of one byte (R116), and its three operations (R112 to R114). -/

namespace Sys2Proof.Machine

/-! ## The step on numbers (R110) -/

theorem hiByte_toNat (v : Half) : (hiByte v).toNat = v.toNat / 256 := by
  have := v.isLt
  simp only [hiByte, BitVec.extractLsb'_toNat, Nat.shiftRight_eq_div_pow]
  omega

theorem zext16_toNat (b : Byte) : (zext16 b).toNat = b.toNat := by
  have := b.isLt
  simp only [zext16, BitVec.toNat_setWidth]
  omega

theorem crcFold_toNat (acc : Half) (b : Byte) :
    (crcFold acc b).toNat = (acc.toNat / 256 ^^^ b.toNat) ^^^ (acc.toNat / 256 ^^^ b.toNat) / 16 := by
  simp [crcFold, hiByte_toNat, Nat.shiftRight_eq_div_pow]

/-- Truncation to 16 bits commutes with XOR, so truncating each shifted term is truncating once at the end. -/
theorem crcStep_toNat (acc : Half) (b : Byte) :
    (crcStep acc b).toNat =
      ((acc.toNat * 256) ^^^ ((crcFold acc b).toNat * 4096) ^^^ ((crcFold acc b).toNat * 32) ^^^
        (crcFold acc b).toNat) % 65536 := by
  have hx : (crcFold acc b).toNat % 2 ^ 16 = (crcFold acc b).toNat := by
    have := (crcFold acc b).isLt
    omega
  rw [show 65536 = 2 ^ 16 by rfl, Nat.xor_mod_two_pow, Nat.xor_mod_two_pow, Nat.xor_mod_two_pow, hx]
  simp [crcStep, zext16_toNat, Nat.shiftLeft_eq]

/-- Settles O20: the step on numbers, with the intermediate on numbers put in. -/
theorem crcStepArithmetic : Obligations.CrcStepArithmetic := by
  intro acc b
  rw [crcStep_toNat, crcFold_toNat]

/-! ## Functions that are linear over XOR -/

/-- `f` takes an XOR to the XOR of its values. -/
def XorLinear (f : Half → Half) : Prop := ∀ a b, f (a ^^^ b) = f a ^^^ f b

theorem XorLinear.zero {f : Half → Half} (hf : XorLinear f) : f 0 = 0 := by
  have h := hf 0 0
  rwa [BitVec.xor_self, BitVec.xor_self] at h

theorem XorLinear.iterate {f : Half → Half} (hf : XorLinear f) (n : Nat) : XorLinear f^[n] := by
  intro a b
  induction n generalizing a b with
  | zero => rfl
  | succ n ih => simp only [Function.iterate_succ_apply, hf a b, ih]

/-- A linear function is fixed by its values on the 16 words of one bit: the bits of a word are cleared from
the top, one XOR for each that is set. -/
theorem XorLinear.ext {f g : Half → Half} (hf : XorLinear f) (hg : XorLinear g)
    (h : ∀ i : Fin 16, f (BitVec.twoPow 16 i) = g (BitVec.twoPow 16 i)) : f = g := by
  suffices below : ∀ k ≤ 16, ∀ a : Half, (∀ i, k ≤ i → a.getLsbD i = false) → f a = g a from
    funext fun a => below 16 le_rfl a fun i hi => BitVec.getLsbD_of_ge a i hi
  intro k hk
  induction k with
  | zero =>
    intro a ha
    obtain rfl : a = 0 := BitVec.eq_of_getLsbD_eq fun i _ => by simpa using ha i (Nat.zero_le i)
    rw [hf.zero, hg.zero]
  | succ k ih =>
    intro a ha
    cases hbit : a.getLsbD k with
    | false =>
      refine ih (by omega) a fun i hi => ?_
      obtain rfl | hlt := hi.eq_or_lt
      · exact hbit
      · exact ha i hlt
    | true =>
      have hrest : f (a ^^^ BitVec.twoPow 16 k) = g (a ^^^ BitVec.twoPow 16 k) := by
        refine ih (by omega) _ fun i hi => ?_
        obtain rfl | hlt := hi.eq_or_lt
        · simp [hbit, show k < 16 by omega]
        · simp [ha i hlt, hlt.ne]
      rw [hf, hg, h ⟨k, hk⟩] at hrest
      exact (BitVec.xor_left_inj _).mp hrest

/-! ## The bitwise shift register (R115) -/

theorem bitwiseCrcStep_eq_iterate (acc : Half) (b : Byte) :
    bitwiseCrcStep acc b = shiftStep^[8] (acc ^^^ (zext16 b <<< 8)) := rfl

/-- The polynomial is XORed in as the bit shifted out says. -/
def feedback (out : Bool) : Half := if out then 0x1021 else 0

theorem feedback_xor (p q : Bool) : feedback (p ^^ q) = feedback p ^^^ feedback q := by
  cases p <;> cases q <;> rfl

theorem shiftStep_eq (a : Half) : shiftStep a = (a <<< 1) ^^^ feedback a.msb := by
  cases h : a.msb <;> simp [shiftStep, feedback, h]

theorem shiftStep_xorLinear : XorLinear shiftStep := by
  intro a b
  simp only [shiftStep_eq, BitVec.msb_xor, feedback_xor, BitVec.shiftLeft_xor_distrib]
  ac_rfl

theorem crcStep_xorLinear : XorLinear (crcStep · 0) := fun a b => crcStep_xor a b 0 0

@[simp] theorem hiByte_zext16_shiftLeft (b : Byte) : hiByte (zext16 b <<< 8) = b := by
  ext i hi
  simp [hiByte, zext16, show 8 + i < 16 by omega, BitVec.getLsbD_eq_getElem hi]

/-- A byte that meets itself in the high half of the accumulator leaves nothing. -/
theorem crcStep_shifted_self (b : Byte) : crcStep (zext16 b <<< 8) b = 0 := by
  have hfold : crcFold (zext16 b <<< 8) b = 0 := by simp [crcFold]
  have hlow : zext16 b <<< 8 <<< 8 = 0 := by simp [← BitVec.shiftLeft_add]
  rw [crcStep, hfold, hlow]
  rfl

/-- The byte of a step enters through the high half of the accumulator alone. -/
theorem crcStep_eq_crcStep_zero (acc : Half) (b : Byte) :
    crcStep acc b = crcStep (acc ^^^ (zext16 b <<< 8)) 0 := by
  have h := crcStep_xor acc (zext16 b <<< 8) b b
  rw [crcStep_shifted_self, BitVec.xor_self] at h
  exact (h.trans BitVec.xor_zero).symm

/-- The step without a byte is eight shifts: both are linear, and they agree on each single bit. -/
theorem crcStep_zero_eq_iterate_shiftStep : (crcStep · 0) = shiftStep^[8] :=
  crcStep_xorLinear.ext (shiftStep_xorLinear.iterate 8) (by decide)

/-- Settles O23: the byte enters by an XOR into the high half on both sides, and eight shifts follow. -/
theorem crcIsShiftRegister : Obligations.CrcIsShiftRegister := by
  intro acc b
  rw [crcStep_eq_crcStep_zero, bitwiseCrcStep_eq_iterate]
  exact congrFun crcStep_zero_eq_iterate_shiftStep _

/-! ## An error of one byte (R116) -/

/-- The bit shifted out comes back as bit 0, since the polynomial is odd. -/
theorem shiftStep_getLsbD_zero (a : Half) : (shiftStep a).getLsbD 0 = a.msb := by
  cases h : a.msb <;> simp [shiftStep_eq, feedback, h]

/-- No shift loses a bit: the bit shifted out can be read back, and with it the polynomial is taken off. -/
theorem shiftStep_injective : Function.Injective shiftStep := by
  intro a b h
  have hmsb : a.msb = b.msb := by rw [← shiftStep_getLsbD_zero, h, shiftStep_getLsbD_zero]
  have hshift : a <<< 1 = b <<< 1 := by
    rw [shiftStep_eq, shiftStep_eq, hmsb] at h
    exact (BitVec.xor_left_inj _).mp h
  refine BitVec.eq_of_getLsbD_eq fun i hi => ?_
  obtain rfl | hlt : i = 15 ∨ i < 15 := by omega
  · rwa [BitVec.msb_eq_getLsbD_last, BitVec.msb_eq_getLsbD_last] at hmsb
  · simpa [show i + 1 < 16 by omega, BitVec.getLsbD_eq_getElem hi] using congrArg (·.getLsbD (i + 1)) hshift

theorem crcStep_injective_of_acc (b : Byte) : Function.Injective (crcStep · b) := by
  intro a a' h
  simp only [crcIsShiftRegister _ b, bitwiseCrcStep_eq_iterate] at h
  exact (BitVec.xor_left_inj _).mp (shiftStep_injective.iterate 8 h)

theorem crcStep_injective_of_byte (acc : Half) : Function.Injective (crcStep acc) := by
  intro b b' h
  rw [crcIsShiftRegister acc b, crcIsShiftRegister acc b', bitwiseCrcStep_eq_iterate,
    bitwiseCrcStep_eq_iterate] at h
  have hbyte := (BitVec.xor_right_inj _).mp (shiftStep_injective.iterate 8 h)
  simpa using congrArg hiByte hbyte

theorem crcFrom_injective (bytes : List Byte) : Function.Injective (crcFrom · bytes) := by
  induction bytes with
  | nil => exact fun _ _ h => h
  | cons b bytes ih => exact fun _ _ h => crcStep_injective_of_acc b (ih h)

/-- Up to the byte that differs the accumulators are the same, that byte makes them differ, and no byte
behind it makes them the same again. -/
theorem crcFrom_ne_of_byte_ne {b b' : Byte} (h : b ≠ b') (acc : Half) (xs ys : List Byte) :
    crcFrom acc (xs ++ b :: ys) ≠ crcFrom acc (xs ++ b' :: ys) := by
  rw [crcFrom_append, crcFrom_append, crcFrom_cons, crcFrom_cons]
  exact (crcFrom_injective ys).ne ((crcStep_injective_of_byte _).ne h)

/-- Settles O24: the changed sequence differs from the given one in the byte at `j` alone. -/
theorem singleByteErrorChangesCrc : Obligations.SingleByteErrorChangesCrc := by
  intro bytes j e hj he
  have hsplit : bytes.take j ++ bytes[j] :: bytes.drop (j + 1) = bytes := by simp
  have hflip : flipByte bytes j e = bytes.take j ++ (bytes[j] ^^^ e) :: bytes.drop (j + 1) := by
    rw [flipByte, byteAt_eq_getElem hj, List.set_eq_take_append_cons_drop, if_pos hj]
  have hne : bytes[j] ^^^ e ≠ bytes[j] := fun h => he (by simpa using h)
  have hcrc := crcFrom_ne_of_byte_ne hne crcInit (bytes.take j) (bytes.drop (j + 1))
  rwa [← hflip, hsplit] at hcrc

/-! ## The operations (R112 to R114) -/

/-- Settles O21, each clause by the rule of its operation. -/
theorem crcOperationsComplete : Obligations.CrcOperationsComplete :=
  fun s b => ⟨exec_crcInit s, exec_crcByte b s, exec_crcRead s⟩

end Sys2Proof.Machine
end

section
/-! The XOR parity and the syndrome (spec/42_fec.md): the group sizes (R132), the discrepancies and their
flags (R133), and the linearity that makes a syndrome depend on the error pattern alone (R135). -/

namespace Sys2Proof.Machine

/-! ## Bytes of a part of a list, and of an XOR (R9) -/

theorem byteAt_take {n i : Nat} (h : i < n) (l : List Byte) : byteAt (l.take n) i = byteAt l i := by
  simp [byteAt, h]

theorem byteAt_drop (n i : Nat) (l : List Byte) : byteAt (l.drop n) i = byteAt l (n + i) := by
  simp [byteAt]

theorem byteAt_replicate_zero (n i : Nat) : byteAt (List.replicate n 0) i = 0 := by
  simp only [byteAt, List.getD_eq_getElem?_getD, List.getElem?_replicate]
  split <;> rfl

theorem xorBytes_length {a b : List Byte} (h : a.length = b.length) : (xorBytes a b).length = a.length := by
  simp [xorBytes, h]

theorem byteAt_xorBytes {a b : List Byte} (h : a.length = b.length) (i : Nat) :
    byteAt (xorBytes a b) i = byteAt a i ^^^ byteAt b i := byteAt_zipWith_xor a b h i

theorem xorOver_xorBytes (idx : List Nat) {a b : List Byte} (h : a.length = b.length) :
    xorOver idx (xorBytes a b) = xorOver idx a ^^^ xorOver idx b := xorOver_xor idx a b h

theorem xorOver_congr {idx : List Nat} {a b : List Byte} (h : ∀ i ∈ idx, byteAt a i = byteAt b i) :
    xorOver idx a = xorOver idx b := by
  induction idx with
  | nil => rfl
  | cons i idx ih =>
    obtain ⟨hi, hidx⟩ := List.forall_mem_cons.mp h
    rw [xorOver_cons, xorOver_cons, hi, ih hidx]

/-! ## The groups (R12, R132) -/

theorem group_six : group 6 = [48, 49] := by decide

theorem group_seven : group 7 = [] := by decide

theorem byteAt_parity_six (d : List Byte) : byteAt (parity d) 6 = byteAt d 48 ^^^ byteAt d 49 := by
  simp [byteAt_parity, group_six, xorOver_cons]

theorem byteAt_parity_seven (d : List Byte) : byteAt (parity d) 7 = 0 := by
  simp [byteAt_parity, group_seven]

/-- The parity bytes of an assembled frame are frame bytes 54 to 61 (R70, R73). -/
theorem byteAt_txFrame_parity {d : List Byte} (h : d.length = 50) {k : Nat} (hk : k < 8) :
    byteAt (txFrame d) (54 + k) = byteAt (parity d) k := by
  obtain ⟨-, -, -, hparity, -⟩ := txFrameLayout d h
  rw [parity_eq_parityLoop, ← hparity, byteAt_take hk, byteAt_drop]

/-! ## Syndromes from their discrepancies (R133) -/

theorem syndrome_eq_of_discrepancy {p a : List Byte} (ha : a.length = 8)
    (h : ∀ k < 8, discrepancy p k = byteAt a k) : syndrome p = a := by
  refine eq_of_byteAt_eq (by rw [syndrome_length, ha]) fun k hk => ?_
  rw [syndrome_length] at hk
  rw [byteAt_syndrome hk, h k hk]

/-- The group XOR of a payload is the parity of its data span. -/
theorem xorOver_group_eq_byteAt_parity {k : Nat} (hk : k < 8) (p : List Byte) :
    xorOver (group k) p = byteAt (parity (p.take 50)) k := by
  rw [byteAt_parity hk]
  exact xorOver_congr fun i hi => (byteAt_take (mem_group.mp hi).1 p).symm

theorem syndrome_eq_xorBytes {p : List Byte} (h : p.length = 58) :
    syndrome p = xorBytes (parity (p.take 50)) (p.drop 50) := by
  have hlen : (parity (p.take 50)).length = (p.drop 50).length := by simp [h]
  refine syndrome_eq_of_discrepancy (by rw [xorBytes_length hlen, parity_length]) fun k hk => ?_
  rw [byteAt_xorBytes hlen, byteAt_drop, ← xorOver_group_eq_byteAt_parity hk]
  rfl

theorem byteAt_syndrome_seven (p : List Byte) : byteAt (syndrome p) 7 = byteAt p 57 := by
  simp [byteAt_syndrome, discrepancy, group_seven, dataLen]

/-! ## Linearity (R135) -/

section
variable {a b : List Byte} (h : a.length = b.length)
include h

theorem parity_xorBytes : parity (xorBytes a b) = xorBytes (parity a) (parity b) := by
  have hlen : (parity a).length = (parity b).length := by rw [parity_length, parity_length]
  refine eq_of_byteAt_eq (by rw [xorBytes_length hlen, parity_length, parity_length]) fun k hk => ?_
  rw [parity_length] at hk
  rw [byteAt_xorBytes hlen, byteAt_parity hk, byteAt_parity hk, byteAt_parity hk, xorOver_xorBytes _ h]

theorem discrepancy_xorBytes (k : Nat) :
    discrepancy (xorBytes a b) k = discrepancy a k ^^^ discrepancy b k := by
  simp only [discrepancy, xorOver_xorBytes _ h, byteAt_xorBytes h]
  ac_rfl

theorem syndrome_xorBytes : syndrome (xorBytes a b) = xorBytes (syndrome a) (syndrome b) := by
  have hlen : (syndrome a).length = (syndrome b).length := by rw [syndrome_length, syndrome_length]
  refine syndrome_eq_of_discrepancy (by rw [xorBytes_length hlen, syndrome_length]) fun k hk => ?_
  rw [byteAt_xorBytes hlen, byteAt_syndrome hk, byteAt_syndrome hk, discrepancy_xorBytes h]

/-- A consistent payload adds nothing to the syndrome. -/
theorem syndrome_xorBytes_of_consistent (ha : parityConsistent a = true) :
    syndrome (xorBytes a b) = syndrome b := by
  refine syndrome_eq_of_discrepancy (syndrome_length b) fun k hk => ?_
  rw [discrepancy_xorBytes h, parityConsistent_iff.mp ha k hk, byteAt_syndrome hk]
  exact BitVec.zero_xor

end

/-! ## The error of one byte (R135) -/

/-- The error pattern of a payload in which byte `j` alone is wrong, by `e`. -/
def byteError (j : Nat) (e : Byte) : List Byte := (List.replicate 58 0).set j e

theorem byteError_length (j : Nat) (e : Byte) : (byteError j e).length = 58 := by simp [byteError]

section
variable {j : Nat} (hj : j < 58) (e : Byte)
include hj

theorem byteAt_byteError (i : Nat) : byteAt (byteError j e) i = if j = i then e else 0 := by
  rw [byteError, byteAt_set (by simpa using hj), byteAt_replicate_zero]

theorem flipByte_eq_xorBytes {p : List Byte} (hp : p.length = 58) :
    flipByte p j e = xorBytes p (byteError j e) := by
  have hlen : p.length = (byteError j e).length := by rw [hp, byteError_length]
  refine eq_of_byteAt_eq (by rw [flipByte, List.length_set, xorBytes_length hlen]) fun i _ => ?_
  rw [flipByte, byteAt_set (by rwa [hp]), byteAt_xorBytes hlen, byteAt_byteError hj]
  by_cases hi : j = i
  · simp [hi]
  · simp [hi]

/-- Over distinct positions the XOR is the error itself when `j` is one of them. -/
theorem xorOver_byteError {idx : List Nat} (hidx : idx.Nodup) :
    xorOver idx (byteError j e) = if j ∈ idx then e else 0 := by
  induction idx with
  | nil => rfl
  | cons i idx ih =>
    obtain ⟨hi, hrest⟩ := List.nodup_cons.mp hidx
    rw [xorOver_cons, ih hrest, byteAt_byteError hj]
    by_cases hji : j = i
    · simp [hji, hi]
    · simp [hji]

theorem discrepancy_byteError (k : Nat) : discrepancy (byteError j e) k =
    (if j ∈ group k then e else 0) ^^^ (if j = 50 + k then e else 0) := by
  rw [discrepancy, xorOver_byteError hj e ((group_pairwise_lt k).imp Nat.ne_of_lt), byteAt_byteError hj,
    dataLen]

end

/-- An error in data byte `j` is the discrepancy of group `j / 8`, and there is no other. -/
theorem syndrome_byteError_data {j : Nat} (hj : j < 50) (e : Byte) :
    syndrome (byteError j e) = (List.replicate 8 0).set (j / 8) e := by
  refine syndrome_eq_of_discrepancy (by simp) fun k _ => ?_
  rw [discrepancy_byteError (by omega), byteAt_set (by rw [List.length_replicate]; omega),
    byteAt_replicate_zero, if_neg (show j ≠ 50 + k by omega)]
  simp [mem_group, hj]

/-- An error in parity byte `g` is the discrepancy of group `g`, and there is no other. -/
theorem syndrome_byteError_parity {g : Nat} (hg : g < 8) (e : Byte) :
    syndrome (byteError (50 + g) e) = (List.replicate 8 0).set g e := by
  refine syndrome_eq_of_discrepancy (by simp) fun k _ => ?_
  rw [discrepancy_byteError (by omega), byteAt_set (by rwa [List.length_replicate]),
    byteAt_replicate_zero]
  simp [mem_group]

theorem syndrome_flipByte_of_consistent {p : List Byte} {j : Nat} (hp : p.length = 58)
    (hc : parityConsistent p = true) (hj : j < 58) (e : Byte) :
    syndrome (flipByte p j e) = syndrome (byteError j e) := by
  rw [flipByte_eq_xorBytes hj e hp, syndrome_xorBytes_of_consistent (by rw [hp, byteError_length]) hc]

/-- The payload span has no byte of the magic or the checksum (R70, R101). -/
theorem payloadSpan_flipByte_outside {j : Nat} (h : j < 4 ∨ 62 ≤ j) (f : List Byte) (e : Byte) :
    payloadSpan (flipByte f j e) = payloadSpan f := by
  rw [payloadSpan, payloadSpan, flipByte, payloadLen]
  obtain hmagic | hchecksum := h
  · rw [List.drop_set_of_lt hmagic]
  · rw [List.drop_set, if_neg (by omega), List.take_set_of_le (by omega)]

/-! ## The obligations -/

/-- Settles O25: the loop adds to slot `k` the data bytes whose group is `k`, and those alone. -/
theorem parityIsAccumulationLoop : Obligations.ParityIsAccumulationLoop :=
  fun d _ => parity_eq_parityLoop d

/-- Settles O26: the two short groups give parity bytes 6 and 7, and the assembled frame carries them. -/
theorem parityGroupSizes : Obligations.ParityGroupSizes := by
  refine ⟨by decide, group_six, group_seven, fun d hd =>
    ⟨byteAt_parity_six d, byteAt_parity_seven d, fun s =>
      ⟨_, _, exec_txAssemble_of_length s hd, State.respond_responses s _, ?_, ?_⟩⟩⟩
  · exact (byteAt_txFrame_parity hd (k := 6) (by decide)).trans (byteAt_parity_six d)
  · exact (byteAt_txFrame_parity hd (k := 7) (by decide)).trans (byteAt_parity_seven d)

/-- Settles O27: the second clause is the definition of a discrepancy, group for group. -/
theorem syndromeAndFlags : Obligations.SyndromeAndFlags := fun p hp =>
  ⟨syndrome_eq_xorBytes hp, fun _ hk => byteAt_syndrome hk p, fun _ hk => getLsbD_flagMask _ hk,
    byteAt_syndrome_seven p⟩

/-- Settles O28: a changed byte is an XOR with an error pattern, and of a consistent payload only the
pattern is left in the syndrome. -/
theorem syndromeIsLinear : Obligations.SyndromeIsLinear := by
  refine ⟨fun d e hd he => parity_xorBytes (hd.trans he.symm),
    fun p e hp he => syndrome_xorBytes (hp.trans he.symm),
    fun p e hp he hc => syndrome_xorBytes_of_consistent (hp.trans he.symm) hc,
    fun p j e hp hc hj => ?_, fun p k e hp hc hk => ?_, fun f j e _ hj => ?_⟩
  · rw [syndrome_flipByte_of_consistent hp hc (by omega), syndrome_byteError_data hj]
  · rw [syndrome_flipByte_of_consistent hp hc (by omega), syndrome_byteError_parity hk]
  · rw [payloadSpan_flipByte_outside hj]

end Sys2Proof.Machine
end

section
/-! The synchronizer (spec/43_sync.md): what RX.PUSH does with a byte while Seeking (R151), while Accumulating
and on the last byte of a frame (R152, R153), and which pushed frames are recovered (R156). -/

namespace Sys2Proof.Machine

/-! ## The next state of RX.PUSH, written out -/

theorem setCursor_eq {n : Nat} (h : n < 64) (s : State) : s.setCursor n = { s with syncCursor := ⟨n, h⟩ } :=
  congrArg (fun c => { s with syncCursor := c }) (Fin.ext (Nat.mod_eq_of_lt h))

theorem exec_rxPush_of_accepted {b : Byte} {s : State} (h : s.syncCursor.val + 1 < 64)
    (hb : s.syncCursor.val < 4 → b = byteAt magic s.syncCursor.val) :
    exec (.rxPush b) s = .next { s with
      syncCursor := ⟨s.syncCursor.val + 1, h⟩
      rxbuf := s.rxbuf.set s.syncCursor.val b s.syncCursor.isLt
      responses := s.responses ++ [⟨.ok, 0, []⟩] } := by
  rw [exec_rxPush, rxPush_of_accepted h hb, acceptByte, setCursor_eq h]
  rfl

theorem exec_rxPush_of_discarded {b : Byte} {s : State} (h : s.syncCursor.val < 4)
    (hb : b ≠ byteAt magic s.syncCursor.val) :
    exec (.rxPush b) s = .next { s with
      syncCursor := 0
      cntDiscard := s.cntDiscard + 1
      responses := s.responses ++ [⟨.ok, 1, []⟩] } := by
  rw [exec_rxPush, rxPush_of_discarded h hb]
  rfl

/-- The byte that completes a frame, by the answer of the validator (R152). -/
theorem rxPush_of_verdict {b : Byte} {s : State} {r : Verdict × List Byte} (hc : s.syncCursor.val = 63)
    (hr : validate (s.rxbuf.toList.set 63 b) = r) :
    rxPush b s = settleFrame r ((s.storeRx b).setCursor 0) := by
  rw [rxPush_of_completed hc, completeFrame, storeRx_toList, hc, hr]

theorem settleFrame_rxbuf (r : Verdict × List Byte) (s : State) : (settleFrame r s).rxbuf = s.rxbuf := by
  obtain ⟨v, g⟩ := r
  cases v <;> rfl

/-! ## A transmitted value and its override slot, on numbers (R9, R190) -/

theorem le16_toNat (lo hi : Byte) : (le16 lo hi).toNat = lo.toNat + 256 * hi.toNat := by
  have hhi : hi.toNat <<< 8 % 2 ^ 16 = hi.toNat <<< 8 := by omega
  rw [le16, BitVec.toNat_or, BitVec.toNat_shiftLeft, zext16_toNat, zext16_toNat, hhi, Nat.or_comm,
    ← Nat.shiftLeft_add_eq_or_of_lt lo.isLt]
  omega

theorem le16_eq_ofNat (lo hi : Byte) : le16 lo hi = BitVec.ofNat 16 (lo.toNat + 256 * hi.toNat) := by
  rw [← le16_toNat, BitVec.ofNat_toNat, BitVec.setWidth_eq]

theorem le16_eq_sentinel_iff (lo hi : Byte) : le16 lo hi = sentinel ↔ lo = 0xFF ∧ hi = 0xFF := by
  rw [← BitVec.toNat_inj, le16_toNat, sentinel]
  bv_omega

theorem overrideOf_le16 (old : Half) (lo hi : Byte) : overrideOf old (le16 lo hi) =
    if lo = 0xFF ∧ hi = 0xFF then old else BitVec.ofNat 16 (lo.toNat + 256 * hi.toNat) :=
  if_congr (le16_eq_sentinel_iff lo hi) rfl (le16_eq_ofNat lo hi)

/-! ## The cursor over a run of pushes (R156) -/

/-- A byte moves the cursor one further or puts it at 0. -/
theorem rxPush_cursor (b : Byte) (s : State) :
    (rxPush b s).syncCursor.val = s.syncCursor.val + 1 ∨ (rxPush b s).syncCursor.val = 0 := by
  obtain ⟨hc, hb⟩ | ⟨hc, hb⟩ | hc := rxPush_accepted_or_discarded_or_completed b s
  · rw [rxPush_of_accepted hc hb]
    exact .inl (setCursor_val hc (s.storeRx b))
  · rw [rxPush_of_discarded hc hb]
    exact .inr rfl
  · rw [rxPush_of_completed hc]
    obtain ⟨g, -, e⟩ | ⟨g, -, e⟩ | ⟨g, -, e⟩ := completeFrame_cases b s <;> rw [e] <;> exact .inr rfl

/-- After `n` pushes the cursor is `n` further, or it has been at 0 since and is below `n`. -/
theorem execAll_rxPush_cursor (bs : List Byte) (s : State) :
    ∃ t, execAll (bs.map .rxPush) s = .next t ∧
      (t.syncCursor.val = s.syncCursor.val + bs.length ∨ t.syncCursor.val < bs.length) := by
  induction bs generalizing s with
  | nil => exact ⟨s, rfl, .inl rfl⟩
  | cons b bs ih =>
    obtain ⟨t, e, ht⟩ := ih (rxPush b s)
    refine ⟨t, (execAll_cons (exec_rxPush b s)).trans e, ?_⟩
    have hstep := rxPush_cursor b s
    rw [List.length_cons]
    omega

/-- Only the byte that completes a frame is answered FRAME_VALID (R154). -/
theorem rxPush_not_frameValid {s : State} (h : s.syncCursor.val ≠ 63) (b : Byte) (g : List Byte) :
    (rxPush b s).responses.getLast? ≠ some ⟨.ok, 2, g⟩ := by
  obtain ⟨hc, hb⟩ | ⟨hc, hb⟩ | hc := rxPush_accepted_or_discarded_or_completed b s
  · rw [rxPush_of_accepted hc hb]
    simp [acceptByte, RxEvent.code]
  · rw [rxPush_of_discarded hc hb]
    simp [discardByte, RxEvent.code]
  · exact absurd hc h

/-- From any other cursor than 0, the 64th byte pushed completes no frame: the cursor would have to come to
63 in 63 pushes. -/
theorem execAll_rxPush_not_frameValid {f : List Byte} {s : State} (hf : f.length = 64)
    (hs : s.syncCursor.val ≠ 0) (g : List Byte) :
    ∃ t, execAll (f.map .rxPush) s = .next t ∧ t.responses.getLast? ≠ some ⟨.ok, 2, g⟩ := by
  obtain rfl | ⟨bs, b, rfl⟩ := List.eq_nil_or_concat f
  · cases hf
  · obtain ⟨t, e, ht⟩ := execAll_rxPush_cursor bs s
    have hlen : bs.length = 63 := by simpa using hf
    refine ⟨rxPush b t, ?_, rxPush_not_frameValid (by omega) b g⟩
    rw [List.concat_eq_append, List.map_append, execAll_append e]
    exact execAll_cons (exec_rxPush b t)

/-! ## The obligations -/

/-- Settles O40: behind the magic every byte of an incomplete frame is accepted. -/
theorem rxPushWhileAccumulating : Obligations.RxPushWhileAccumulating :=
  fun _ _ h h4 => exec_rxPush_of_accepted h fun hlt => absurd hlt (Nat.not_lt.mpr h4)

/-- Settles O39: the byte continues the magic and is accepted, or breaks it and is discarded. -/
theorem rxPushWhileSeeking : Obligations.RxPushWhileSeeking := by
  intro s b h
  refine ⟨fun hb => exec_rxPush_of_accepted (by omega) fun _ => hb, fun hb => ?_, fun h3 hb => ?_⟩
  · have hcnt : BitVec.ofNat 16 ((s.cntDiscard.toNat + 1) % 65536) = s.cntDiscard + 1 := by bv_omega
    rw [hcnt]
    exact exec_rxPush_of_discarded h hb
  · have hmagic : b = byteAt magic s.syncCursor.val := by rw [h3, hb]; rfl
    refine ⟨_, exec_rxPush_of_accepted (by omega) fun _ => hmagic, by simp [h3], ?_⟩
    simp [State.syncState, h3]

/-- Settles O41: the three verdicts are the three cases of `settleFrame`, and a slot takes the frame's value
by `rxPush_rccmd_of_verdict`. -/
theorem rxPushCompletesFrame : Obligations.RxPushCompletesFrame := by
  intro s b f g v hc hf hv
  subst hf
  have hpush := rxPush_of_verdict hc hv
  refine ⟨rxPush b s, rfl, ?_, ?_, ?_, ?_, fun hne ch => ?_⟩
  · rintro rfl
    rw [hpush]
    rfl
  · rintro rfl
    rw [hpush]
    rfl
  · rintro rfl
    rw [hpush]
    rfl
  · rw [hpush, settleFrame_rxbuf, State.setCursor_rxbuf, storeRx_toList, hc]
  · have hoffset : 4 + 2 * ch.val + 1 = 5 + 2 * ch.val := by omega
    rw [rxPush_rccmd_of_verdict hc hv hne, commandValue, field16, overrideOf_le16, hoffset]

/-- Settles O42: from cursor 0 the frame is recovered (`execAll_rxPush_wellFormedFrame`), from any other
cursor its last byte completes no frame. -/
theorem frameRecoveredIffCursorZero : Obligations.FrameRecoveredIffCursorZero := by
  intro f s hf
  by_cases hs : s.syncCursor.val = 0
  · obtain ⟨v, -, e⟩ := execAll_rxPush_wellFormedFrame hf hs
    exact ⟨_, e, iff_of_true List.getLast?_concat hs⟩
  · obtain ⟨hlen, -, -⟩ := wellFormedFrame_iff.mp hf
    obtain ⟨t, e, ht⟩ := execAll_rxPush_not_frameValid hlen hs f
    exact ⟨t, e, iff_of_false ht hs⟩

end Sys2Proof.Machine
end

section
/-! The validator (spec/44_validator.md): the trials as one ascending list of positions (R173), the verdicts
(R171, R174) and the frames it accepts. -/

namespace Sys2Proof.Machine

/-! ## The trials in ascending order (R173) -/

/-- The trial at position `i`: byte `i` XORed by the discrepancy of its group. -/
def positionTrial (p : List Byte) (i : Nat) : List Byte := flipByte p i (discrepancy p (i / 8))

/-- The positions of the flagged groups, ascending. -/
def flaggedPositions (p : List Byte) : List Nat :=
  (List.range 50).filter fun i => discrepancy p (i / 8) ≠ 0

theorem flatMap_group : (List.range 8).flatMap group = List.range 50 := by decide

theorem groupTrials_eq_map (p : List Byte) (k : Nat) : groupTrials p k =
    ((group k).filter fun i => discrepancy p (i / 8) ≠ 0).map (positionTrial p) := by
  have hgroup : ∀ i ∈ group k, i / 8 = k := fun i hi => (mem_group.mp hi).2
  by_cases hd : discrepancy p k = 0
  · rw [groupTrials, if_pos hd, List.filter_eq_nil_iff.mpr fun i hi => by rw [hgroup i hi]; simpa using hd,
      List.map_nil]
  · rw [groupTrials, if_neg hd, List.filter_eq_self.mpr fun i hi => by rw [hgroup i hi]; simpa using hd]
    refine List.map_congr_left fun i hi => ?_
    rw [positionTrial, hgroup i hi]
    rfl

/-- Groups ascending and positions ascending within each are all positions ascending. -/
theorem trials_eq_map (p : List Byte) : trials p = (flaggedPositions p).map (positionTrial p) := by
  rw [trials, funext (groupTrials_eq_map p), flaggedPositions, ← flatMap_group, List.filter_flatMap,
    List.map_flatMap, parityLen]

/-- The first trial that matches is at a flagged position, and no flagged position below it matches. -/
theorem first_trial_of_find?_eq_some {p q : List Byte} {m : List Byte → Bool}
    (h : (trials p).find? m = some q) : ∃ i < 50, discrepancy p (i / 8) ≠ 0 ∧ q = positionTrial p i ∧
      ∀ j < i, discrepancy p (j / 8) ≠ 0 → m (positionTrial p j) = false := by
  rw [trials_eq_map, List.find?_map, Option.map_eq_some_iff, flaggedPositions] at h
  obtain ⟨i, hi, rfl⟩ := h
  simp only [List.find?_filter, List.find?_range_eq_some, List.mem_range, decide_eq_true_eq,
    Bool.not_eq_true', decide_eq_false_iff_not, not_and, Bool.not_eq_true, Function.comp_apply] at hi
  obtain ⟨⟨hd, -⟩, hi, hbefore⟩ := hi
  exact ⟨i, hi, hd, rfl, hbefore⟩

/-! ## A byte changed in a part of a sequence, and in a frame's payload (R70, R173) -/

theorem flipByte_append_left {a : List Byte} {i : Nat} (hi : i < a.length) (b : List Byte) (e : Byte) :
    flipByte (a ++ b) i e = flipByte a i e ++ b := by
  simp [flipByte, byteAt, List.getElem?_append_left hi, List.set_append_left _ _ hi]

theorem flipByte_append_right (a b : List Byte) (i : Nat) (e : Byte) :
    flipByte (a ++ b) (a.length + i) e = a ++ flipByte b i e := by
  rw [flipByte, byteAt_append_right, List.set_append_right _ _ (Nat.le_add_right _ _), Nat.add_sub_cancel_left]
  rfl

theorem withPayload_payloadSpan (f : List Byte) : withPayload f (payloadSpan f) = f := by
  have hdrop : f.drop 62 = (f.drop 4).drop 58 := by simp
  rw [withPayload, payloadSpan, payloadLen, hdrop, List.append_assoc, List.take_append_drop,
    List.take_append_drop]

section
variable {f : List Byte} (hf : f.length = 64) {i : Nat} (hi : i < 58)
include hf hi

/-- A byte changed in the payload is a byte changed in the frame, four further. -/
theorem flipByte_payload (e : Byte) :
    flipByte f (4 + i) e = withPayload f (flipByte (payloadSpan f) i e) := by
  have hmagic : (f.take 4).length = 4 := by simp [hf]
  have hspan : i < (payloadSpan f).length := by rwa [payloadSpan_length hf]
  calc flipByte f (4 + i) e
      = flipByte (f.take 4 ++ (payloadSpan f ++ f.drop 62)) ((f.take 4).length + i) e := by
        rw [hmagic, ← List.append_assoc, ← withPayload, withPayload_payloadSpan]
    _ = withPayload f (flipByte (payloadSpan f) i e) := by
        rw [flipByte_append_right, flipByte_append_left hspan, withPayload, List.append_assoc]

theorem payloadSpan_flipByte (e : Byte) :
    payloadSpan (flipByte f (4 + i) e) = flipByte (payloadSpan f) i e := by
  rw [flipByte_payload hf hi, payloadSpan_withPayload hf (by simp [flipByte, hf])]

end

theorem validate_of_checksum {f : List Byte} (h : crc16 (payloadSpan f) = transmittedCrc f) :
    validate f = (.valid, f) := if_pos h

/-! ## The obligations -/

/-- Settles O33: `validate_eq_validateLoop`, which needs no length. -/
theorem validateIsNestedLoops : Obligations.ValidateIsNestedLoops := fun f _ => validate_eq_validateLoop f

/-- Settles O34: the trials are one for each flagged position of the 50. -/
theorem atMostFiftyTrials : Obligations.AtMostFiftyTrials := by
  refine fun p _ => ⟨?_, fun q hq => ?_⟩
  · rw [trials_eq_map, List.length_map]
    exact (List.length_filter_le _ _).trans (List.length_range).le
  · obtain ⟨i, hi, -, rfl⟩ := mem_trials.mp hq
    exact ⟨i, _, hi, rfl⟩

/-- Settles O35: each verdict excludes the two others, so `validate_cases` gives both directions. -/
theorem validAndFailedVerdicts : Obligations.ValidAndFailedVerdicts := by
  intro f _
  obtain ⟨hcrc, hv⟩ | ⟨hcrc, q, -, hq, hm, hv⟩ | ⟨hcrc, hnone, hv⟩ := validate_cases f
  · rw [hv]
    exact ⟨iff_of_true rfl hcrc, iff_of_false nofun fun h => h.1 hcrc, fun _ => rfl⟩
  · obtain ⟨i, hi, hd, rfl⟩ := mem_trials.mp hq
    rw [hv]
    exact ⟨iff_of_false nofun hcrc, iff_of_false nofun fun h => h.2 i hi hd hm, fun h => absurd rfl h⟩
  · rw [hv]
    refine ⟨iff_of_false nofun hcrc, iff_of_true rfl ⟨hcrc, fun i hi hd => ?_⟩, fun _ => rfl⟩
    exact hnone _ (mem_trials.mpr ⟨i, hi, hd, rfl⟩)

/-- Settles O36: the trial `validate` finds is the first in the ascending list of positions. -/
theorem correctedIsFirstMatchingTrial : Obligations.CorrectedIsFirstMatchingTrial := by
  intro f g hf hg
  obtain ⟨-, hv⟩ | ⟨-, q, hfind, hq, hm, hv⟩ | ⟨-, -, hv⟩ := validate_cases f
  · cases hv.symm.trans hg
  · obtain rfl : withPayload f q = g := congrArg Prod.snd (hv.symm.trans hg)
    obtain ⟨i, hi, hd, hqi, hbefore⟩ := first_trial_of_find?_eq_some hfind
    have hlen : q.length = 58 := (length_of_mem_trials hq).trans (payloadSpan_length hf)
    refine ⟨i, hi, hd, ?_, ?_, fun j hj hdj => ?_⟩
    · rw [hqi]
      exact (flipByte_payload hf (by omega) _).symm
    · exact (congrArg crc16 (payloadSpan_withPayload hf hlen)).trans hm
    · exact beq_eq_false_iff_ne.mp (hbefore j hj hdj)
  · cases hv.symm.trans hg

/-- Settles O37: a corrected frame carries the trial as its payload and the checksum the trial matched. -/
theorem acceptedFrameIsValid : Obligations.AcceptedFrameIsValid := by
  refine fun f hf hne => ⟨?_, validate_length hf⟩
  obtain ⟨-, hv⟩ | ⟨-, q, -, hq, hm, hv⟩ | ⟨-, -, hv⟩ := validate_cases f
  · rw [hv]
    exact hv
  · have hlen : q.length = 58 := (length_of_mem_trials hq).trans (payloadSpan_length hf)
    rw [hv]
    refine validate_of_checksum ?_
    rw [payloadSpan_withPayload hf hlen, transmittedCrc_withPayload hf hlen, hm]
  · exact absurd (congrArg Prod.fst hv) hne

end Sys2Proof.Machine
end

section
/-! Errors of one byte value at two positions of a payload (spec/41_crc16.md R116, spec/44_validator.md R177):
they never cancel in the checksum. In terms of polynomials over GF(2): the generator of R115 divides no
`e(x) * (x^(8m) + 1)` with `e` a nonzero byte and `0 < m < 58`. -/

namespace Sys2Proof.Machine

open Function (IsPeriodicPt)

/-! ## The register run backwards -/

/-- One shift of the register of R115 undone. -/
def shiftBack (w : Half) : Half := (w >>> 1) ^^^ if w.getLsbD 0 then 0x8810 else 0

theorem shiftBack_xorLinear : XorLinear shiftBack := by
  intro a b
  have hfeedback : (if (a ^^^ b).getLsbD 0 then (0x8810 : Half) else 0) =
      (if a.getLsbD 0 then 0x8810 else 0) ^^^ if b.getLsbD 0 then 0x8810 else 0 := by
    rw [BitVec.getLsbD_xor]
    cases a.getLsbD 0 <;> cases b.getLsbD 0 <;> rfl
  rw [shiftBack, hfeedback, BitVec.ushiftRight_xor_distrib, shiftBack, shiftBack]
  ac_rfl

theorem shiftStep_shiftBack (w : Half) : shiftStep (shiftBack w) = w := by
  have hlinear : XorLinear (shiftStep ∘ shiftBack) := fun a b =>
    (congrArg shiftStep (shiftBack_xorLinear a b)).trans (shiftStep_xorLinear _ _)
  exact congrFun (hlinear.ext (g := id) (fun _ _ => rfl) (by decide)) w

/-! ## Words that come back after `n` shifts -/

/-- One step of dividing by the odd polynomial `a` from the low end: bit 0 is cleared and shifted out. -/
def cancelLow (a w : Half) : Half := shiftBack (if w.getLsbD 0 then w ^^^ a else w)

/-- A smaller word made from `a`: half of it when it is even, else what is left when the generator of R115
is divided by it from the low end. The first shift back takes in the generator, and 14 steps bring its 16 bits
below the degree of any odd `a` but 1 and 3. -/
def descend (a : Half) : Half := if a.getLsbD 0 then (cancelLow a)^[14] (shiftBack a) else shiftBack a

/-- Among the polynomials of degree below 8 only 1 and `x + 1` divide the generator: every other leaves a
smaller one. -/
theorem descend_lt : ∀ n < 256, n = 0 ∨ n = 1 ∨ n = 3 ∨
    descend (BitVec.ofNat 16 n) ≠ 0 ∧ (descend (BitVec.ofNat 16 n)).toNat < n := by decide +kernel

theorem isPeriodicPt_of_apply {f : Half → Half} (hf : Function.Injective f) {n : Nat} {w : Half}
    (h : IsPeriodicPt f n (f w)) : IsPeriodicPt f n w :=
  hf ((Function.iterate_succ_apply' f n w).symm.trans h)

section
variable {n : Nat} {a w : Half}

theorem isPeriodicPt_xor (ha : IsPeriodicPt shiftStep n a) (hw : IsPeriodicPt shiftStep n w) :
    IsPeriodicPt shiftStep n (a ^^^ w) :=
  (shiftStep_xorLinear.iterate n a w).trans (congrArg₂ (· ^^^ ·) ha hw)

theorem isPeriodicPt_shiftBack (hw : IsPeriodicPt shiftStep n w) : IsPeriodicPt shiftStep n (shiftBack w) :=
  isPeriodicPt_of_apply shiftStep_injective (by rwa [shiftStep_shiftBack])

theorem isPeriodicPt_cancelLow (ha : IsPeriodicPt shiftStep n a) (hw : IsPeriodicPt shiftStep n w) :
    IsPeriodicPt shiftStep n (cancelLow a w) := by
  refine isPeriodicPt_shiftBack ?_
  split
  · exact isPeriodicPt_xor hw ha
  · exact hw

theorem isPeriodicPt_descend (ha : IsPeriodicPt shiftStep n a) : IsPeriodicPt shiftStep n (descend a) := by
  rw [descend]
  split
  · exact Function.Iterate.rec (IsPeriodicPt shiftStep n) (isPeriodicPt_shiftBack ha)
      (fun _ hw => isPeriodicPt_cancelLow ha hw) 14
  · exact isPeriodicPt_shiftBack ha

end

/-- If a nonzero byte comes back after `n` shifts then so does `x + 1`: the words that come back are closed
under `descend`, which from a byte ends at 1 or at `x + 1`. -/
theorem isPeriodicPt_three_of_byte {n : Nat} {a : Half} (h0 : a ≠ 0) (hlt : a.toNat < 256)
    (ha : IsPeriodicPt shiftStep n a) : IsPeriodicPt shiftStep n 3 := by
  induction hk : a.toNat using Nat.strong_induction_on generalizing a with
  | _ k ih =>
    have hofNat : BitVec.ofNat 16 a.toNat = a := by simp
    obtain hz | h1 | h3 | ⟨hne, hdesc⟩ := descend_lt a.toNat hlt
    · exact absurd (BitVec.eq_of_toNat_eq hz) h0
    · obtain rfl : a = 1 := BitVec.eq_of_toNat_eq h1
      exact isPeriodicPt_xor ha ha.apply
    · obtain rfl : a = 3 := BitVec.eq_of_toNat_eq h3
      exact ha
    · rw [hofNat] at hne hdesc
      exact ih _ (hk ▸ hdesc) hne (hdesc.trans hlt) (isPeriodicPt_descend ha) rfl

/-- A byte in the low half of the accumulator moves to the high half unchanged. -/
theorem crcStep_zext16_zero (e : Byte) : crcStep (zext16 e) 0 = zext16 e <<< 8 := by
  have hhigh : hiByte (zext16 e) = 0 := by
    ext i hi
    simp [hiByte, zext16]
  have hfold : crcFold (zext16 e) 0 = 0 := by
    rw [crcFold, hhigh]
    rfl
  rw [crcStep, hfold]
  simp [zext16]

/-- The order of `x^8` modulo the generator's other factor is above 57. -/
theorem crcStep_zero_iterate_three_ne : ∀ m < 57, (crcStep · 0)^[m + 1] 3 ≠ 3 := by decide

/-- No nonzero byte in the high half of the accumulator comes back within a payload's length. -/
theorem crcStep_zero_iterate_byte_ne {e : Byte} (he : e ≠ 0) {m : Nat} (h0 : 0 < m) (hm : m < 58) :
    (crcStep · 0)^[m] (zext16 e <<< 8) ≠ zext16 e <<< 8 := by
  intro h
  have hne : zext16 e ≠ 0 := fun h0 => he (BitVec.eq_of_toNat_eq (by rw [← zext16_toNat, h0]; rfl))
  have hlt : (zext16 e).toNat < 256 := by rw [zext16_toNat]; exact e.isLt
  rw [← crcStep_zext16_zero] at h
  have hsteps : IsPeriodicPt (crcStep · 0) m (zext16 e) := isPeriodicPt_of_apply (crcStep_injective_of_acc 0) h
  rw [crcStep_zero_eq_iterate_shiftStep, IsPeriodicPt, ← Function.iterate_mul] at hsteps
  have hthree : IsPeriodicPt shiftStep (8 * m) 3 := isPeriodicPt_three_of_byte hne hlt hsteps
  rw [IsPeriodicPt, Function.iterate_mul, ← crcStep_zero_eq_iterate_shiftStep] at hthree
  obtain ⟨k, rfl⟩ : ∃ k, m = k + 1 := ⟨m - 1, by omega⟩
  exact crcStep_zero_iterate_three_ne k (by omega) hthree

/-! ## The checksum of an error (R116) -/

theorem crcFrom_replicate_zero (acc : Half) (n : Nat) :
    crcFrom acc (List.replicate n 0) = (crcStep · 0)^[n] acc := by
  induction n generalizing acc with
  | zero => rfl
  | succ n ih => exact ih (crcStep acc 0)

/-- The byte enters at its position, and every byte behind it is a step without a byte. -/
theorem crcFrom_byteError {j : Nat} (hj : j < 58) (e : Byte) :
    crcFrom 0 (byteError j e) = (crcStep · 0)^[58 - j] (zext16 e <<< 8) := by
  have hstart : (crcStep · 0)^[j] 0 = 0 := Function.iterate_fixed crcStep_zero j
  have hbyte : crcStep 0 e = crcStep (zext16 e <<< 8) 0 := by simpa using crcStep_eq_crcStep_zero 0 e
  have hlen : 58 - j = 58 - (j + 1) + 1 := by omega
  rw [byteError, List.set_eq_take_append_cons_drop, if_pos (by simpa using hj), List.take_replicate,
    List.drop_replicate, Nat.min_eq_left (by omega), crcFrom_append, crcFrom_replicate_zero, hstart,
    crcFrom_cons, crcFrom_replicate_zero, hbyte, hlen, Function.iterate_succ_apply]

theorem crcFrom_byteError_ne {i j : Nat} (hij : i < j) (hj : j < 58) {e : Byte} (he : e ≠ 0) :
    crcFrom 0 (byteError i e) ≠ crcFrom 0 (byteError j e) := by
  rw [crcFrom_byteError (by omega), crcFrom_byteError hj]
  exact fun h => crcStep_zero_iterate_byte_ne he (by omega) (by omega)
    (Function.iterate_cancel (crcStep_injective_of_acc 0) h)

theorem crc16_flipByte {p : List Byte} (hp : p.length = 58) {j : Nat} (hj : j < 58) (e : Byte) :
    crc16 (flipByte p j e) = crc16 p ^^^ crcFrom 0 (byteError j e) := by
  rw [flipByte_eq_xorBytes hj e hp]
  exact crcFrom_xor crcInit 0 p (byteError j e) (by rw [hp, byteError_length])

/-- Two errors of one value cancel in the checksum only when they cancel in the payload. -/
theorem crc16_flipByte_flipByte_ne {p : List Byte} (hp : p.length = 58) {i j : Nat} (hi : i < 58) (hj : j < 58)
    (hne : i ≠ j) {e : Byte} (he : e ≠ 0) : crc16 (flipByte (flipByte p j e) i e) ≠ crc16 p := by
  have hlen : (flipByte p j e).length = 58 := by rw [flipByte, List.length_set, hp]
  rw [crc16_flipByte hlen hi, crc16_flipByte hp hj, BitVec.xor_assoc]
  intro h
  have heq : crcFrom 0 (byteError j e) = crcFrom 0 (byteError i e) := by simpa using h
  obtain hlt | hgt := Nat.lt_or_gt_of_ne hne
  · exact crcFrom_byteError_ne hlt hj he heq.symm
  · exact crcFrom_byteError_ne hgt hi he heq

end Sys2Proof.Machine
end

section
/-! One changed byte of a frame (spec/44_validator.md R177): in the magic, the data span, the parity bytes and
the checksum. -/

namespace Sys2Proof.Machine

/-! ## The verdict from the trials (R173, R174) -/

section
variable {f p : List Byte} {want : Half} (hp : payloadSpan f = p) (hwant : transmittedCrc f = want)
  (hne : crc16 p ≠ want)
include hp hwant hne

theorem validate_of_no_trial (hnone : ∀ q ∈ trials p, crc16 q ≠ want) : validate f = (.failed, f) := by
  subst hp hwant
  obtain ⟨hcrc, -⟩ | ⟨-, q, -, hq, hm, -⟩ | ⟨-, -, hv⟩ := validate_cases f
  · exact absurd hcrc hne
  · exact absurd hm (hnone q hq)
  · exact hv

theorem validate_of_only_trial {q : List Byte} (hq : q ∈ trials p) (hm : crc16 q = want)
    (honly : ∀ q' ∈ trials p, crc16 q' = want → q' = q) : validate f = (.corrected, withPayload f q) := by
  subst hp hwant
  obtain ⟨hcrc, -⟩ | ⟨-, q', -, hq', hm', hv⟩ | ⟨-, hnone, -⟩ := validate_cases f
  · exact absurd hcrc hne
  · rw [hv, honly q' hq' hm']
  · exact absurd hm (hnone q hq)

end

/-- With no group flagged there is no trial (R174). -/
theorem trials_of_consistent {p : List Byte} (h : parityConsistent p = true) : trials p = [] := by
  refine List.eq_nil_iff_forall_not_mem.mpr fun q hq => ?_
  obtain ⟨i, hi, hd, -⟩ := mem_trials.mp hq
  exact hd (parityConsistent_iff.mp h (i / 8) (by omega))

/-- With one group flagged the trials are its positions, each XORed by the one discrepancy. -/
theorem mem_trials_of_syndrome {p q : List Byte} {g : Nat} {e : Byte} (hg : g < 8) (he : e ≠ 0)
    (hs : syndrome p = (List.replicate 8 0).set g e) :
    q ∈ trials p ↔ ∃ i < 50, i / 8 = g ∧ q = flipByte p i e := by
  have hdisc : ∀ k < 8, discrepancy p k = if g = k then e else 0 := fun k hk => by
    rw [← byteAt_syndrome hk, hs, byteAt_set (by simpa using hg), byteAt_replicate_zero]
  rw [mem_trials]
  refine exists_congr fun i => and_congr_right fun hi => ?_
  rw [hdisc (i / 8) (by omega)]
  by_cases hig : g = i / 8
  · rw [if_pos hig]
    exact and_congr (iff_of_true he hig.symm) Iff.rfl
  · rw [if_neg hig]
    exact iff_of_false (fun h => h.1 rfl) fun h => hig h.1.symm

theorem withPayload_withPayload {f q : List Byte} (hf : f.length = 64) (hq : q.length = 58) (q' : List Byte) :
    withPayload (withPayload f q) q' = withPayload f q' := by
  have htake : (withPayload f q).take 4 = f.take 4 := by simp [withPayload, hf]
  have hdrop : (withPayload f q).drop 62 = f.drop 62 := List.drop_left' (by simp [hf, hq])
  rw [withPayload, htake, hdrop, withPayload]

/-! ## A byte changed twice, and a checksum byte (R53) -/

theorem flipByte_flipByte_self {p : List Byte} {j : Nat} (hj : j < p.length) (e : Byte) :
    flipByte (flipByte p j e) j e = p := by
  have hbyte : byteAt (flipByte p j e) j ^^^ e = byteAt p j := by
    rw [flipByte, byteAt_set hj, if_pos rfl, BitVec.xor_assoc, BitVec.xor_self, BitVec.xor_zero]
  rw [flipByte, hbyte, flipByte, List.set_set, byteAt_eq_getElem hj, List.set_getElem_self]

theorem le16_inj {lo hi lo' hi' : Byte} : le16 lo hi = le16 lo' hi' ↔ lo = lo' ∧ hi = hi' := by
  rw [← BitVec.toNat_inj, le16_toNat, le16_toNat]
  bv_omega

theorem transmittedCrc_flipByte_before {j : Nat} (hj : j < 62) (f : List Byte) (e : Byte) :
    transmittedCrc (flipByte f j e) = transmittedCrc f := by
  simp only [transmittedCrc, field16, flipByte, byteAt, List.getD_eq_getElem?_getD,
    List.getElem?_set_ne (show j ≠ 62 by omega), List.getElem?_set_ne (show j ≠ 63 by omega)]

theorem transmittedCrc_flipByte_ne {f : List Byte} {j : Nat} (hf : f.length = 64) (h62 : 62 ≤ j)
    (hj : j < 64) {e : Byte} (he : e ≠ 0) :
    transmittedCrc (flipByte f j e) ≠ transmittedCrc f := by
  have hlt : j < f.length := by omega
  simp only [transmittedCrc, field16, flipByte, byteAt_set hlt, ne_eq, le16_inj]
  obtain rfl | rfl : j = 62 ∨ j = 63 := by omega
  · simpa using he
  · simpa using he

/-! ## The rows of R177 -/

section
variable {f : List Byte} (hf : f.length = 64) (hcrc : crc16 (payloadSpan f) = transmittedCrc f)
  (hc : parityConsistent (payloadSpan f) = true) {e : Byte} (he : e ≠ 0)
include hf hcrc hc he

/-- The transmitted checksum is no longer the payload's, and no group is flagged. -/
theorem validate_flipByte_checksum {j : Nat} (h62 : 62 ≤ j) (hj : j < 64) :
    validate (flipByte f j e) = (.failed, flipByte f j e) := by
  refine validate_of_no_trial (payloadSpan_flipByte_outside (.inr h62) f e) rfl ?_ ?_
  · rw [hcrc]
    exact (transmittedCrc_flipByte_ne hf h62 hj he).symm
  · rw [trials_of_consistent hc]
    exact nofun

/-- The group of the changed parity byte is flagged alone, and each of its trials leaves two errors of one
value. -/
theorem validate_flipByte_parity {k : Nat} (hk : k < 8) :
    validate (flipByte f (4 + (50 + k)) e) = (.failed, flipByte f (4 + (50 + k)) e) := by
  have hp : (payloadSpan f).length = 58 := payloadSpan_length hf
  have hi : 50 + k < 58 := by omega
  have hwant := (transmittedCrc_flipByte_before (show 4 + (50 + k) < 62 by omega) f e).trans hcrc.symm
  have hs : syndrome (flipByte (payloadSpan f) (50 + k) e) = (List.replicate 8 0).set k e := by
    rw [syndrome_flipByte_of_consistent hp hc hi, syndrome_byteError_parity hk]
  refine validate_of_no_trial (payloadSpan_flipByte hf hi e) hwant
    (singleByteErrorChangesCrc _ _ e (by omega) he) fun q hq => ?_
  obtain ⟨i, hi50, -, rfl⟩ := (mem_trials_of_syndrome hk he hs).mp hq
  exact crc16_flipByte_flipByte_ne hp (by omega) hi (by omega) he

/-- The group of the changed byte is flagged alone. The trial at that byte is the original payload, and each
other trial leaves two errors of one value. -/
theorem validate_flipByte_data {j : Nat} (hj : j < 50) : validate (flipByte f (4 + j) e) = (.corrected, f) := by
  have hp : (payloadSpan f).length = 58 := payloadSpan_length hf
  have hj58 : j < 58 := by omega
  have hwant := (transmittedCrc_flipByte_before (show 4 + j < 62 by omega) f e).trans hcrc.symm
  have hs : syndrome (flipByte (payloadSpan f) j e) = (List.replicate 8 0).set (j / 8) e := by
    rw [syndrome_flipByte_of_consistent hp hc hj58, syndrome_byteError_data hj]
  have hself : flipByte (flipByte (payloadSpan f) j e) j e = payloadSpan f :=
    flipByte_flipByte_self (by omega) e
  have htrials q := mem_trials_of_syndrome (q := q) (g := j / 8) (by omega) he hs
  have hv := validate_of_only_trial (payloadSpan_flipByte hf hj58 e) hwant
    (singleByteErrorChangesCrc _ _ e (by omega) he) ((htrials _).mpr ⟨j, hj, rfl, hself.symm⟩) rfl
    fun q hq hm => ?_
  · rw [hv, flipByte_payload hf hj58, withPayload_withPayload hf (by simp [flipByte, hp]),
      withPayload_payloadSpan]
  · obtain ⟨i, hi, -, rfl⟩ := (htrials q).mp hq
    by_cases hij : i = j
    · rw [hij, hself]
    · exact absurd hm (crc16_flipByte_flipByte_ne hp (by omega) hj58 hij he)

end

/-- Settles O38: the four rows of R177, the payload's split into data and parity bytes. -/
theorem singleByteErrorOutcomes : Obligations.SingleByteErrorOutcomes := by
  intro f j e hf hcrc hc hj he
  refine ⟨validate_of_checksum hcrc, fun h4 => ?_, fun ⟨h4, h54⟩ => ?_, fun h54 => ?_⟩
  · refine validate_of_checksum ?_
    rw [payloadSpan_flipByte_outside (.inl h4), transmittedCrc_flipByte_before (by omega)]
    exact hcrc
  · obtain ⟨i, rfl⟩ := Nat.exists_eq_add_of_le h4
    exact validate_flipByte_data hf hcrc hc he (by omega)
  · obtain h62 | h62 := Nat.lt_or_ge j 62
    · obtain ⟨k, rfl⟩ := Nat.exists_eq_add_of_le h54
      have hoffset : 54 + k = 4 + (50 + k) := by omega
      rw [hoffset]
      exact validate_flipByte_parity hf hcrc hc he (by omega)
    · exact validate_flipByte_checksum hf hcrc hc he h62 hj

end Sys2Proof.Machine
end

section
/-! The arbiter (spec/45_arbiter.md): an override comes from an accepted frame alone (R190, R306), the failsafe
counts the ticks of a run without one (R192, R193), and a sample is answered with the effective value (R194,
R195). -/

namespace Sys2Proof.Machine

/-! ## Where an override comes from (R190, R306) -/

theorem noOverrides_getElem (ch : Fin 8) : noOverrides[ch] = 0 := Vector.getElem_replicate ch.isLt

/-- An accepting RX.PUSH completes a frame that the validator does not fail (R152). -/
theorem verdict_of_acceptsFrame_rxPush {b : Byte} {s : State} (h : acceptsFrame (.rxPush b) s = true) :
    s.syncCursor.val = 63 ∧ ∃ v g, validate (s.storeRx b).rxbuf.toList = (v, g) ∧ v ≠ .failed := by
  by_cases hc : s.syncCursor.val = 63
  · obtain ⟨v, g, hv⟩ : ∃ v g, validate (s.storeRx b).rxbuf.toList = (v, g) := ⟨_, _, rfl⟩
    refine ⟨hc, v, g, hv, ?_⟩
    rintro rfl
    simp only [acceptsFrame, completionVerdict, if_pos hc, hv] at h
    cases h
  · simp [acceptsFrame, completionVerdict, hc] at h

/-- ARB.TICK puts a slot at 0 or leaves it, so only an RX.PUSH that accepts a frame makes one active. -/
theorem exec_activates_override {i : Instr} {s t : State} {ch : Fin 8} (h : exec i s = .next t)
    (hne : t.rccmd[ch] ≠ s.rccmd[ch]) (h0 : t.rccmd[ch] ≠ 0) :
    ∃ b, i = .rxPush b ∧ acceptsFrame (.rxPush b) s = true := by
  have hw : t.rccmd ≠ s.rccmd := fun e => hne (by rw [e])
  obtain rfl | accepted := exec_writes_arbiter h (.inr hw)
  · cases exec_effect h with
    | answer => exact absurd rfl hw
    | clear => exact absurd (noOverrides_getElem ch) h0
    | count => exact absurd rfl hw
  · exact accepted

/-- A slot that ARB.APPLY changes takes the transmitted value, which is not the sentinel (R190, R191). -/
theorem value_of_overrideOf_ne {old v : Half} (h : overrideOf old v ≠ old) :
    overrideOf old v = v ∧ v ≠ sentinel := by
  by_cases hv : v = sentinel
  · exact absurd (if_pos hv) h
  · exact ⟨overrideOf_of_ne hv old, hv⟩

theorem commandValue_eq_le16 (g : List Byte) (ch : Nat) :
    commandValue g ch = le16 (byteAt g (4 + 2 * ch)) (byteAt g (5 + 2 * ch)) := by
  rw [commandValue, field16, show 4 + 2 * ch + 1 = 5 + 2 * ch by omega]

/-- The output frame of a Valid or Corrected verdict has 64 bytes and its checksum holds: the validator finds
it Valid (R171, R173). -/
theorem accepted_frame_checksum {f g : List Byte} {v : Verdict} (hf : f.length = 64)
    (hv : validate f = (v, g)) (hne : v ≠ .failed) :
    g.length = 64 ∧ crc16 ((g.drop 4).take 58) = le16 (byteAt g 62) (byteAt g 63) := by
  have hacc := acceptedFrameIsValid f hf
  rw [hv] at hacc
  obtain ⟨hvalid, hg⟩ := hacc hne
  obtain ⟨hcrc, -, -⟩ := validAndFailedVerdicts g hg
  exact ⟨hg, hcrc.mp (congrArg Prod.fst hvalid)⟩

/-- Settles O18: only an accepting RX.PUSH makes a slot active (`exec_activates_override`), the slot takes the
value of the validator's output frame, and that frame's checksum holds (`accepted_frame_checksum`). -/
theorem overridesOnlyFromValidatedFrames : Obligations.OverridesOnlyFromValidatedFrames := by
  intro s t ch hst hne h0
  obtain ⟨rest, -, rfl⟩ | ⟨w, vin, rest, i, hin, hd, he⟩ | ⟨w, vin, rest, c, -, -, rfl⟩ := step_cases hst
  · exact absurd (noOverrides_getElem ch) h0
  · obtain ⟨b, rfl, ha⟩ := exec_activates_override he hne h0
    obtain ⟨hc, v, g, hv, hnf⟩ := verdict_of_acceptsFrame_rxPush ha
    obtain ⟨hg, hcrc⟩ := accepted_frame_checksum Vector.length_toList hv hnf
    have hset : validate (s.rxbuf.toList.set 63 b) = (v, g) := by
      rw [storeRx_toList, hc] at hv
      exact hv
    have hslot : t.rccmd[ch] = overrideOf s.rccmd[ch] (commandValue g ch.val) := by
      cases he
      exact rxPush_rccmd_of_verdict (s := { s with inputs := rest }) hc hset hnf ch
    rw [hslot] at hne ⊢
    obtain ⟨hval, hns⟩ := value_of_overrideOf_ne hne
    rw [hval]
    exact ⟨b, v, g, ⟨w, vin, rest, hin, hd⟩, hc, hv, hnf, hg, hcrc, commandValue_eq_le16 g ch.val, hns⟩
  · exact absurd rfl hne

/-! ## The failsafe (R192, R193) -/

/-- State `t` is where `n` ticks without an accepted frame lead from `s`, as far as the failsafe goes. -/
structure FailsafeAfter (s : State) (n : Nat) (t : State) : Prop where
  threshold : t.timeoutThreshold = s.timeoutThreshold
  count : t.timeoutCnt.toNat = n % s.timeoutThreshold.toNat
  stand : n < s.timeoutThreshold.toNat → t.rccmd = s.rccmd
  clear : s.timeoutThreshold.toNat ≤ n → t.rccmd = noOverrides

theorem FailsafeAfter.refl {s : State} (h0 : s.timeoutCnt = 0) (hT : s.timeoutThreshold ≠ 0) :
    FailsafeAfter s 0 s where
  threshold := rfl
  count := by simp [h0]
  stand _ := rfl
  clear h := absurd h (by bv_omega)

section
variable {s t u : State} {n : Nat}

/-- An operation that is no tick and accepts no frame leaves the failsafe where it is. -/
theorem FailsafeAfter.exec_other {i : Instr} (h : FailsafeAfter s n t) (hi : i ≠ .arbTick)
    (hq : acceptsFrame i t = false) (hu : exec i t = .next u) : FailsafeAfter s n u := by
  have same : u.timeoutCnt = t.timeoutCnt ∧ u.rccmd = t.rccmd := by
    by_contra hw
    obtain rfl | ⟨b, rfl, ha⟩ := exec_writes_arbiter hu (not_and_or.mp hw)
    · exact hi rfl
    · exact absurd (ha.symm.trans hq) nofun
  obtain ⟨hcnt, hcmd⟩ := same
  obtain ⟨u', -, hu', -, -, hthr, -⟩ := exec_answers i t
  cases hu'.symm.trans hu
  exact ⟨hthr.trans h.threshold, hcnt ▸ h.count, hcmd ▸ h.stand, hcmd ▸ h.clear⟩

/-- A tick is counted modulo the threshold, and clears exactly when that count comes round to 0. -/
theorem FailsafeAfter.exec_arbTick (h : FailsafeAfter s n t) (hT : s.timeoutThreshold ≠ 0)
    (hu : exec .arbTick t = .next u) : FailsafeAfter s (n + 1) u := by
  obtain ⟨hthr, hcnt, hstand, hclear⟩ := h
  have hlt : n % s.timeoutThreshold.toNat < s.timeoutThreshold.toNat := Nat.mod_lt _ (by bv_omega)
  have hmod := Nat.mod_add_mod n s.timeoutThreshold.toNat 1
  obtain ⟨reached, below⟩ := arbTickCountsAndClears t (by omega)
  rw [hthr, hcnt] at reached below
  by_cases hr : s.timeoutThreshold.toNat ≤ n % s.timeoutThreshold.toNat + 1
  · cases (reached hr).symm.trans hu
    have hround : n % s.timeoutThreshold.toNat + 1 = s.timeoutThreshold.toNat := by omega
    have hle : n % s.timeoutThreshold.toNat ≤ n := Nat.mod_le ..
    rw [hround, Nat.mod_self] at hmod
    exact ⟨rfl, hmod, fun hn => by omega, fun _ => rfl⟩
  · have hr := Nat.not_le.mp hr
    cases (below hr).symm.trans hu
    rw [Nat.mod_eq_of_lt hr] at hmod
    refine ⟨rfl, ?_, fun hn => hstand (by omega), fun hn => hclear (Nat.not_lt.mp fun hlt => ?_)⟩
    · rw [BitVec.toNat_ofNat]
      omega
    · rw [Nat.mod_eq_of_lt hlt] at hr
      omega

/-- Over a run that accepts no frame the failsafe counts the ticks of the run. -/
theorem FailsafeAfter.run_quiet {is : List Instr} (h : FailsafeAfter s n t) (hT : s.timeoutThreshold ≠ 0)
    (hq : Quiet is t) : ∃ u, execAll is t = .next u ∧ FailsafeAfter s (n + is.count .arbTick) u := by
  induction is generalizing n t with
  | nil => exact ⟨t, rfl, h⟩
  | cons i is ih =>
    obtain ⟨hi, hrest⟩ := hq
    obtain ⟨v, -, hv, -⟩ := exec_answers i t
    rw [execAll_cons hv]
    by_cases htick : i = .arbTick
    · subst htick
      rw [List.count_cons_self, Nat.add_comm _ 1, ← Nat.add_assoc]
      exact ih (h.exec_arbTick hT hv) (hrest v hv)
    · rw [List.count_cons_of_ne htick]
      exact ih (h.exec_other htick hi hv) (hrest v hv)

end

/-- Settles O45: the failsafe starts at no tick, and every operation of the run keeps its count. -/
theorem failsafeAfterThresholdTicks : Obligations.FailsafeAfterThresholdTicks := by
  intro is s h0 hT hq
  obtain ⟨t, he, ht⟩ := (FailsafeAfter.refl h0 hT).run_quiet hT hq
  rw [Nat.zero_add] at ht
  refine ⟨t, he, ht.count, ht.stand, fun hn ch => ?_⟩
  rw [ht.clear hn]
  exact noOverrides_getElem ch

/-! ## A sample (R194, R195) -/

/-- Settles O44: the two ranges of the index. -/
theorem chSampleMergesOverride : Obligations.ChSampleMergesOverride := by
  refine fun s ch raw => ⟨fun h => ?_, fun h => exec_chSample_of_ge h raw s⟩
  rw [exec_chSample_of_lt h, effectiveValue_eq]
  rfl

end Sys2Proof.Machine
end

section
/-! Control (spec/46_control.md): NOP answers and does nothing else (R210). -/

namespace Sys2Proof.Machine

/-- Settles O47: NOP only responds (`exec_nop`), and responding writes no register (`sameRegisters_respond`). -/
theorem nopDoesNothing : Obligations.NopDoesNothing :=
  fun s => ⟨s.respond ⟨.ok, 0, []⟩, exec_nop s, sameRegisters_respond s _,
    State.respond_responses s _, State.respond_inputs s _⟩

end Sys2Proof.Machine
end

section
/-! When a step stops (spec/60_exceptions.md R301, spec/70_reset_and_hazards.md R406): only with nothing
presented, and it takes one input otherwise. -/

namespace Sys2Proof.Machine

/-- With nothing presented there is nothing to fetch. -/
theorem step_of_inputs_nil {s : State} (h : s.inputs = []) : step s = .fault .noOperation := by
  simp only [step, fetch_nil h]

/-- Whatever the oldest input is, the block answers it and leaves the others presented. -/
theorem step_of_inputs_cons {s : State} {x : HostInput} {rest : List HostInput} (h : s.inputs = x :: rest) :
    ∃ t, step s = .next t ∧ t.inputs = rest := by
  cases x with
  | reset => exact ⟨_, step_reset h, rfl⟩
  | command w vin =>
    obtain ⟨t, -, ht, -, hrest, -⟩ := everyCommandAnsweredOnce s w vin rest h
    exact ⟨t, ht, hrest⟩

/-- Settles O10: the two cases of the list of inputs, each by its step rule. -/
theorem stopsOnlyWithoutInput : Obligations.StopsOnlyWithoutInput := by
  refine fun s => ⟨step_of_inputs_nil, fun hne => ?_⟩
  obtain ⟨x, rest, h⟩ := List.exists_cons_of_ne_nil hne
  rw [h]
  exact step_of_inputs_cons h

end Sys2Proof.Machine
end
